-- ==== Sys2Proof/Word.lean ====
section
/-! DEFINITION. The widths of spec/00_scope.md R10 and R14: a buffer byte, a register word, a payload
length, a register number. No value of the spec is signed (R14). -/

namespace Sys2Proof

/-- A byte of the frame buffer, of a header, or a packet type (`TYPE_W = 8`, R10). -/
abbrev Byte := BitVec 8

/-- A register, and a command word: 32 bits (R24, R76). -/
abbrev Word := BitVec 32

/-- A payload length: 16 bits (`LEN_W = 16`, R10). -/
abbrev Len := BitVec 16

/-- A register number, 0 to 15 (R24, R111). It is a name, never an operand of arithmetic. -/
abbrev RegNum := Fin 16

end Sys2Proof
end

