-- ==== Sys2Proof/Config.lean ====
section
/-! DEFINITION. What a block fixes and the spec leaves open (spec/00_scope.md R12, spec/10_state.md R44),
and the free values (R47). A constant without a body has no value Lean can see: what is proved of it
holds whatever it is. -/

namespace Sys2Proof

/-- The parameters fixed when a block is built (R12, R44): the two magic bytes and the buffer's size.
`BUF_SIZE >= 8` is R12's own bound, so the size is held as what it exceeds 8 by (log 8). -/
structure Config.Params where
  magic0 : Byte
  magic1 : Byte
  /-- `BUF_SIZE - 8`. -/
  bufExtra : Nat
  deriving DecidableEq, Repr, Inhabited

/-- `BUF_SIZE` (R12). -/
def Config.Params.bufSize (p : Config.Params) : Nat := p.bufExtra + 8

theorem Config.Params.bufSize_ge (p : Config.Params) : 8 ≤ p.bufSize := by
  simp [Config.Params.bufSize]

/-- The parameters of the block at hand, open (R12). DESIGN CHOICE (log 2): safe, nothing constrains them. -/
opaque Config.params : Config.Params

/-- FREE VALUE: the byte at a buffer offset that nothing has written since the given reset (R47,
"any byte value, chosen independently per byte"). DESIGN CHOICE (log 3): safe, nothing constrains it. -/
opaque Config.freeByte (epoch offset : Nat) : Byte

/-- The packet types the source names, in its order (R13). The order gives no numbers. -/
inductive Config.PacketType where
  | empty
  | commandFromMaster
  | statusToMaster
  | dataFromExternalDebugClient
  | dataToExternalDebugClient
  | dataFromMaster
  | dataToMaster
  | traceOutput
  | serialDataFromMaster
  | serialDataToMaster
  | chipSelectActivatedNotice
  | networkInfoReport
  | networkInfoSetRequest
  deriving DecidableEq, Repr

/-- `TYPE_ENUM` (R12, R13): the byte of each packet type, open, and read by no rule of the spec and by
nothing in the model (log 12). A claim about a type's name takes it as it is. -/
opaque Config.typeEnum (t : Config.PacketType) : Byte

end Sys2Proof
end

