-- ==== Sys2Proof/Syntax.lean ====
section
/-! DEFINITION. The commands of spec/opcode_table.json (Instr), what a command word decodes to, the host's
five transactions (spec/42_host_port.md R111), and the lines of the spec's assembly notation
(spec/30_encoding.md R84, R85). -/

namespace Sys2Proof

/-- A command of the frame header unit, one constructor per row of the opcode table (R78). Operands as
R79 names them: the type byte `t` (T) and the payload length `l` (L). -/
inductive Instr where
  /-- ENCODE (R93). -/
  | encode (t : Byte) (l : Len)
  /-- FRAME (R95). -/
  | frame (t : Byte) (l : Len)
  /-- PARSE (R106). -/
  | parse
  deriving DecidableEq, Repr

/-- Why a command word encodes no command (R82). The spec has one `Illegal`: the reason is the model's
name for it and has no effect (log 10). -/
inductive IllegalWord where
  /-- RSV, bits [7:4], is not zero. -/
  | reservedBits
  /-- OP is 0x0 or 0x4 to 0xF. -/
  | reservedOp
  /-- OP is 0x3 and some bit of [31:8] is set. -/
  | parseOperands
  deriving DecidableEq, Repr

/-- What a command word decodes to (R79). -/
inductive Decoded where
  | instr (i : Instr)
  | illegal (why : IllegalWord)
  deriving DecidableEq, Repr

/-- The host's transactions (R111). An offset is a natural number; R115 and R116 say which exist. -/
inductive Transaction where
  | regRead (r : RegNum)
  | regWrite (r : RegNum) (v : Word)
  | bufRead (o : Nat)
  | bufWrite (o : Nat) (b : Byte)
  | reset
  deriving DecidableEq, Repr

/-- The register numbers of the register map (R25). -/
def Reg.cmd : RegNum := 0
@[inherit_doc Reg.cmd] def Reg.status : RegNum := 1
@[inherit_doc Reg.cmd] def Reg.encHdrA : RegNum := 2
@[inherit_doc Reg.cmd] def Reg.encHdrB : RegNum := 3
@[inherit_doc Reg.cmd] def Reg.encPad : RegNum := 4
@[inherit_doc Reg.cmd] def Reg.encTotal : RegNum := 5
@[inherit_doc Reg.cmd] def Reg.prsLen : RegNum := 6
@[inherit_doc Reg.cmd] def Reg.prsType : RegNum := 7
@[inherit_doc Reg.cmd] def Reg.prsViewOff : RegNum := 8

/-- One line of a host program in the spec's notation (R84), the pseudo-instructions of R85 among them.
Operands are numbers as a programmer writes them, so a line can be ill-formed (Line.wellFormed). -/
inductive Line where
  | encode (l t : Nat)
  | frame (l t : Nat)
  | parse
  | cmd (w : Nat)
  | wr (r v : Nat)
  | rd (r : Nat)
  | bwr (o b : Nat)
  | brd (o : Nat)
  | reset
  | bwrs (o : Nat) (bs : List Nat)
  | brds (o k : Nat)
  | loadPayload (bs : List Nat)
  /-- SEND, with the number `n` that its own `RD ENC_TOTAL` returns (log 13). -/
  | send (n : Nat)
  deriving DecidableEq, Repr

end Sys2Proof
end

