-- ==== Sys2Proof/WellFormed.lean ====
section
/-! DEFINITION. Which terms of Syntax.lean are well formed. -/

namespace Sys2Proof

/-- A command's operands have the widths of its fields by their types (R77: every T and every L is
legal), so there is nothing left to check of an Instr. -/
def Instr.wellFormed : Instr → Bool
  | .encode _ _ => true
  | .frame _ _ => true
  | .parse => true

/-- A transaction the FHU of parameters `p` accepts: a buffer offset exists (R62, R115, R116). -/
def Transaction.wellFormed (p : Config.Params) : Transaction → Bool
  | .regRead _ => true
  | .regWrite _ _ => true
  | .bufRead o => decide (o < p.bufSize)
  | .bufWrite o _ => decide (o < p.bufSize)
  | .reset => true

/-- A line whose numbers fit the fields they are put in. For L this is the host's duty of R147:
no ENCODE or FRAME word for a payload longer than 65535 bytes. -/
def Line.wellFormed : Line → Bool
  | .encode l t => decide (l < 65536) && decide (t < 256)
  | .frame l t => decide (l < 65536) && decide (t < 256)
  | .parse => true
  | .cmd w => decide (w < 4294967296)
  | .wr r v => decide (r < 16) && decide (v < 4294967296)
  | .rd r => decide (r < 16)
  | .bwr _ b => decide (b < 256)
  | .brd _ => true
  | .reset => true
  | .bwrs _ bs => bs.all (fun b => decide (b < 256))
  | .brds _ _ => true
  | .loadPayload bs => bs.all (fun b => decide (b < 256))
  | .send _ => true

end Sys2Proof
end

