-- ==== Sys2Proof/Decode.lean ====
section
/-! DEFINITION. Command words (spec/30_encoding.md R76 to R83): the decoder, total on every 32-bit word,
the encoder, and the assembler of the spec's notation (R84, R85). -/

namespace Sys2Proof

/-- The OP field, `w[3:0]` (R76). -/
def opOf (w : Word) : BitVec 4 := w.extractLsb' 0 4

/-- The RSV field, `w[7:4]` (R76). -/
def rsvOf (w : Word) : BitVec 4 := w.extractLsb' 4 4

/-- The TYPE field, `T = w[15:8]` (R76, R77). -/
def typeOf (w : Word) : Byte := w.extractLsb' 8 8

/-- The LEN field, `L = w[31:16]` (R76, R77). -/
def lenOf (w : Word) : Len := w.extractLsb' 16 16

/-- The bits `w[31:8]`, reserved in PARSE (R79). -/
def operandBits (w : Word) : BitVec 24 := w.extractLsb' 8 24

/-- The decode function (R79), its tests in the order R79 gives them. -/
def decode (w : Word) : Decoded :=
  if rsvOf w ≠ 0 then .illegal .reservedBits
  else if opOf w = 1 then .instr (.encode (typeOf w) (lenOf w))
  else if opOf w = 2 then .instr (.frame (typeOf w) (lenOf w))
  else if opOf w = 3 ∧ operandBits w = 0 then .instr .parse
  else if opOf w = 3 then .illegal .parseOperands
  else .illegal .reservedOp

/-- The command of a decoded word, if it has one. -/
def Decoded.toOption : Decoded → Option Instr
  | .instr i => some i
  | .illegal _ => none

/-- The OP value of a command (R78). -/
def opcode : Instr → BitVec 4
  | .encode _ _ => 1
  | .frame _ _ => 2
  | .parse => 3

/-- The command word `{L[15:0], T[7:0], 0b0000, OP[3:0]}` (R81). -/
def commandWord (op : BitVec 4) (t : Byte) (l : Len) : Word := l ++ t ++ (0#4) ++ op

/-- The encoder (R81): the word of a command. -/
def encode (i : Instr) : Word :=
  match i with
  | .encode t l => commandWord (opcode i) t l
  | .frame t l => commandWord (opcode i) t l
  | .parse => commandWord (opcode i) 0 0

/-- The command word of which the table gives `nbits` bits, the bits above them zero. A command is one
32-bit word written whole to CMD (R76, R83), so there is no order of words or bytes to lay out. -/
def tableWord (nbits w : Nat) : Word := BitVec.ofNat 32 (w % 2 ^ nbits)

/-- What the decoder reads from a word of the opcode table (none where it is Illegal). -/
def decodeTableWord (nbits w : Nat) : Option Instr := (decode (tableWord nbits w)).toOption

/-- `BWRS o, b0 b1 ...` (R85): one BufWrite a byte, at rising offsets. -/
def bufWrites : Nat → List Nat → List Transaction
  | _, [] => []
  | o, b :: bs => .bufWrite o (BitVec.ofNat 8 b) :: bufWrites (o + 1) bs

/-- `BRDS o, k` (R85): `k` BufReads at rising offsets. -/
def bufReads : Nat → Nat → List Transaction
  | _, 0 => []
  | o, k + 1 => .bufRead o :: bufReads (o + 1) k

/-- The transactions a line of a host program stands for (R84, R85). -/
def assemble : Line → List Transaction
  | .encode l t => [.regWrite Reg.cmd (BitVec.ofNat 32 (l * 65536 + t * 256 + 1))]
  | .frame l t => [.regWrite Reg.cmd (BitVec.ofNat 32 (l * 65536 + t * 256 + 2))]
  | .parse => [.regWrite Reg.cmd 0x00000003]
  | .cmd w => [.regWrite Reg.cmd (BitVec.ofNat 32 w)]
  | .wr r v => [.regWrite (Fin.ofNat 16 r) (BitVec.ofNat 32 v)]
  | .rd r => [.regRead (Fin.ofNat 16 r)]
  | .bwr o b => [.bufWrite o (BitVec.ofNat 8 b)]
  | .brd o => [.bufRead o]
  | .reset => [.reset]
  | .bwrs o bs => bufWrites o bs
  | .brds o k => bufReads o k
  | .loadPayload bs => bufWrites 0 bs
  | .send n => .regRead Reg.encTotal :: bufReads 0 n

/-- LEN 0000000000000010, TYPE 00000001, RSV 0000, OP 0001 (R76, R78). -/
theorem decode_word_encode :
    decode 0b00000000000000100000000100000001 = .instr (.encode 0x01 2) := by decide

/-- LEN 0001001000110100, TYPE 01010110, RSV 0000, OP 0010 (R76, R78). -/
theorem decode_word_frame :
    decode 0b00010010001101000101011000000010 = .instr (.frame 0x56 4660) := by decide

/-- Bits [31:4] zero, OP 0011 (R76, R78). -/
theorem decode_word_parse : decode 0b00000000000000000000000000000011 = .instr .parse := by decide

end Sys2Proof
end

