-- ==== Sys2Proof/Machine/State.lean ====
section
/-! DEFINITION. The state of the frame header unit (spec/10_state.md R48) with the host that drives it
(spec/42_host_port.md R120), as plain data; the two faults' causes; what stops a step; reset. -/

namespace Sys2Proof.Machine

/-- The frame buffer's contents (R43): the offsets written since the last reset, strictly rising
(Memory.wf). An offset that is not listed has not been written: what it reads as is State.byteAt. -/
abbrev Memory := List Host.Cell

/-- The six bits of STATUS (R25, R27 to R33). Bits [31:6] are zero, so they are no state. -/
structure Status where
  validEnc : Bool
  validPrs : Bool
  magicOk : Bool
  ill : Bool
  ovf : Bool
  lastFault : Bool
  deriving DecidableEq, Repr

/-- The 5-byte frame header in wire order (R69). -/
structure Header where
  h0 : Byte
  h1 : Byte
  h2 : Byte
  h3 : Byte
  h4 : Byte
  deriving DecidableEq, Repr

/-- A payload view (R108): an offset in the frame buffer and a number of bytes, no copy. -/
structure View where
  offset : Nat
  length : Nat
  deriving DecidableEq, Repr

/-- The faults a command can raise (R122). They are recorded in STATUS and stop nothing (R121). -/
inductive Cause where
  /-- A word that encodes no command (R124). -/
  | illegalCommand
  /-- A FRAME that does not fit the buffer (R125). -/
  | frameCapacity
  deriving DecidableEq, Repr

/-- What a read returns to the host (R112, R115). -/
inductive Reply where
  | reg (v : Word)
  | byte (b : Byte)
  deriving DecidableEq, Repr

/-- Why the machine has no step. The spec's own faults are not here: they are next states (R121). -/
inductive Fault where
  /-- Raised by a BufRead at offset `o >= BUF_SIZE` (R115, R128): the host is stuck. Safe: the spec
  gives no step, and the model takes none (log 5). -/
  | stuckBufRead (o : Nat)
  /-- Raised by a BufWrite at offset `o >= BUF_SIZE` (R116, R128): the host is stuck. Safe: the spec
  gives no step, and the model takes none (log 5). -/
  | stuckBufWrite (o : Nat)
  deriving DecidableEq, Repr

/-- Why a step is refused. -/
inductive Refusal where
  /-- Raised by exec for an instruction that has no meaning yet; none is left without one. Safe: the
  model stops where the hardware goes on. -/
  | notModelled (mnemonic : String)
  deriving DecidableEq, Repr

/-- The state. `buf` to `prsType` are the record of R48. `params` is not state but fixed data (R44,
log 2). `epoch`, `host` and `replies` are the model's own (log 3, log 1, log 9). -/
structure State where
  /-- MAGIC0, MAGIC1 and BUF_SIZE (R12, R44): no step changes them. -/
  params : Config.Params
  /-- BUF (R43). -/
  buf : Memory
  /-- STATUS (R27). -/
  status : Status
  /-- The content of ENC_HDR_A and ENC_HDR_B (R34, R35). -/
  encHdr : Header
  /-- ENC_PAD (R36). -/
  encPad : BitVec 2
  /-- ENC_TOTAL (R37). -/
  encTotal : BitVec 17
  /-- PRS_LEN (R38). -/
  prsLen : Len
  /-- PRS_TYPE (R39). -/
  prsType : Byte
  /-- The model's counter of resets: the free values of unwritten buffer bytes are drawn anew at each. -/
  epoch : Nat
  /-- The transactions the host has still to issue, the next one first (R111, R120). -/
  host : List Transaction
  /-- What RegRead and BufRead have returned to the host, oldest first. -/
  replies : List Reply
  deriving DecidableEq, Repr

/-- STATUS after reset (R46). -/
def Status.zero : Status := ⟨false, false, false, false, false, false⟩

/-- ENC_HDR after reset (R46). -/
def Header.zero : Header := ⟨0, 0, 0, 0, 0⟩

/-- A block of parameters `p` at power-on (R46, R136, R137): every register field 0, no buffer byte
written, the host's program not yet given. -/
def State.powerOn (p : Config.Params) : State where
  params := p
  buf := []
  status := Status.zero
  encHdr := Header.zero
  encPad := 0
  encTotal := 0
  prsLen := 0
  prsType := 0
  epoch := 0
  host := []
  replies := []

/-- The machine right after reset (R136, R137), its parameters open (log 2). -/
def State.reset : State := State.powerOn Config.params

end Sys2Proof.Machine
end

