-- ==== Sys2Proof/Machine/Datapath.lean ====
section
/-! DEFINITION. The pure datapath functions (spec/00_scope.md R16): the padding calculator, the total-size
calculator and the header encoder (spec/40_encoder.md R86 to R92), the header decoder and the magic check
(spec/41_parser.md R103 to R105). They compute on natural numbers and narrow once (R91). -/

namespace Sys2Proof.Machine

/-- `pad(L) = (4 - ((5 + L) mod 4)) mod 4` (R86). -/
def pad (l : Len) : Nat := (4 - ((5 + l.toNat) % 4)) % 4

/-- `total(L) = 5 + L + pad(L)` (R88). -/
def total (l : Len) : Nat := 5 + l.toNat + pad l

/-- `enc_header(T, L) = [MAGIC0, MAGIC1, T, L[15:8], L[7:0]]` (R90). -/
def encHeader (p : Config.Params) (t : Byte) (l : Len) : Header :=
  ⟨p.magic0, p.magic1, t, l.extractLsb' 8 8, l.extractLsb' 0 8⟩

/-- The header's bytes in wire order (R69). -/
def Header.bytes (h : Header) : List Byte := [h.h0, h.h1, h.h2, h.h3, h.h4]

/-- `dec_len(h) = 256 * h3 + h4` (R103). -/
def decLen (h : Header) : Len := BitVec.ofNat 16 (256 * h.h3.toNat + h.h4.toNat)

/-- `dec_type(h) = h2` (R103). -/
def decType (h : Header) : Byte := h.h2

/-- `magic_ok(h) = (h0 == MAGIC0) and (h1 == MAGIC1)` (R104). -/
def magicOk (p : Config.Params) (h : Header) : Bool := h.h0 == p.magic0 && h.h1 == p.magic1

end Sys2Proof.Machine
end

