-- ==== Sys2Proof/Machine/Flags.lean ====
section
/-! DEFINITION. STATUS: what each kind of command writes to it (spec/10_state.md R28 to R33), and the
register as the host reads it. -/

namespace Sys2Proof.Machine

/-- `zext_32({LAST_FAULT, OVF, ILL, MAGIC_OK, VALID_PRS, VALID_ENC})` (R112). -/
def Status.toWord (st : Status) : Word :=
  (BitVec.ofBool st.lastFault ++ BitVec.ofBool st.ovf ++ BitVec.ofBool st.ill
    ++ BitVec.ofBool st.magicOk ++ BitVec.ofBool st.validPrs ++ BitVec.ofBool st.validEnc).setWidth 32

/-- A completed ENCODE or FRAME (R28, R33, R93, R95). -/
def Status.afterEnc (st : Status) : Status := { st with validEnc := true, lastFault := false }

/-- A completed PARSE whose magic check gave `ok` (R29, R30, R33, R106). -/
def Status.afterPrs (st : Status) (ok : Bool) : Status :=
  { st with magicOk := ok, validPrs := true, lastFault := false }

/-- A command that raised a fault: its sticky bit and LAST_FAULT (R31 to R33, R121). -/
def Status.afterFault (st : Status) : Cause → Status
  | .illegalCommand => { st with ill := true, lastFault := true }
  | .frameCapacity => { st with ovf := true, lastFault := true }

/-- The cause code: the index of the sticky STATUS bit the fault sets (R122). -/
def Cause.code : Cause → Nat
  | .illegalCommand => 3
  | .frameCapacity => 4

end Sys2Proof.Machine
end

