-- ==== Sys2Proof/Machine/Ops.lean ====
section
/-! DEFINITION. The named operations over the frame buffer and the registers: MemRead, MemWrite
(spec/00_scope.md R15), latching a command's outputs (spec/10_state.md R28 to R39), raising a fault
(spec/60_exceptions.md R121) and reset (spec/70_reset_and_hazards.md R136). Raising a fault is this
hardware's whole taking of an exception, and there is no return from one (R131, R132). -/

namespace Sys2Proof.Machine

/-- The canonical form: offsets strictly rising. -/
abbrev Memory.wf (m : Memory) : Prop := m.Pairwise (fun c d => c.1 < d.1)

/-- The byte written last at offset `o`; none where nothing has been written since reset. -/
def Memory.lookup : Memory → Nat → Option Byte
  | [], _ => none
  | c :: m, o => if c.1 = o then some c.2 else Memory.lookup m o

/-- The cells of the bytes `bs` at rising offsets from `a`. -/
def Memory.cells : Nat → List Byte → Memory
  | _, [] => []
  | a, b :: bs => (a, b) :: Memory.cells (a + 1) bs

/-- The bytes `bs` written at rising offsets from `a`, every other offset as before. -/
def Memory.write (m : Memory) (a : Nat) (bs : List Byte) : Memory :=
  m.filter (fun c => decide (c.1 < a)) ++ Memory.cells a bs
    ++ m.filter (fun c => decide (a + bs.length ≤ c.1))

/-- `BUF[o]` (R15): the byte written there, and otherwise the unspecified byte drawn for it at the last
reset (R47), the same at every read (R115). DESIGN CHOICE (log 3): safe. -/
def State.byteAt (s : State) (o : Nat) : Byte :=
  match s.buf.lookup o with
  | some b => b
  | none => Config.freeByte s.epoch o

/-- `MemRead(a, n)` (R15). -/
def State.memRead (s : State) (a : Nat) : Nat → List Byte
  | 0 => []
  | n + 1 => s.byteAt a :: s.memRead (a + 1) n

/-- `MemWrite(a, |bs|, bs)` (R15). -/
def State.memWrite (s : State) (a : Nat) (bs : List Byte) : State :=
  { s with buf := s.buf.write a bs }

/-- The outputs of a completed ENCODE or FRAME for `(T, L)` (R28, R34 to R37, R93, R95). -/
def State.latchEnc (s : State) (t : Byte) (l : Len) : State :=
  { s with
    encHdr := encHeader s.params t l
    encPad := BitVec.ofNat 2 (pad l)
    encTotal := BitVec.ofNat 17 (total l)
    status := s.status.afterEnc }

/-- The outputs of a completed PARSE of the header `h` (R29, R30, R38, R39, R106). -/
def State.latchPrs (s : State) (h : Header) : State :=
  { s with
    prsLen := decLen h
    prsType := decType h
    status := s.status.afterPrs (magicOk s.params h) }

/-- A fault (R121): its sticky bit and LAST_FAULT, and nothing else. No state is saved, no handler is
entered (R131), no value is recorded (R123). -/
def State.raise (s : State) (c : Cause) : State := { s with status := s.status.afterFault c }

/-- A value returned to the host. -/
def State.reply (s : State) (r : Reply) : State := { s with replies := s.replies ++ [r] }

/-- A reset (R136): every register field as at power-on, every buffer byte unspecified anew (R47), the
parameters unaffected (R44). The host and what it has read are no part of the block (log 9). -/
def State.clear (s : State) : State :=
  { State.powerOn s.params with epoch := s.epoch + 1, host := s.host, replies := s.replies }

/-- The host issues `tx` before everything it has still to issue. -/
def State.issue (s : State) (tx : Transaction) : State := { s with host := tx :: s.host }

end Sys2Proof.Machine
end

