-- ==== Sys2Proof/Machine/Operands.lean ====
section
/-! DEFINITION. What commands and reads take from the state: FRAME's payload, PARSE's header, the registers
as the host reads them (spec/10_state.md R25, R34 to R41), the payload view (spec/41_parser.md R108).
The operands in the command word itself (R77) are Decode.lean's. -/

namespace Sys2Proof.Machine

/-- FRAME's payload operand, `MemRead(0, L)` (R95). -/
def State.payload (s : State) (l : Len) : List Byte := s.memRead 0 l.toNat

/-- PARSE's header operand, `MemRead(0, 5)` (R106). -/
def State.header (s : State) : Header :=
  ⟨s.byteAt 0, s.byteAt 1, s.byteAt 2, s.byteAt 3, s.byteAt 4⟩

/-- ENC_HDR_A `= {h[0], h[1], h[2], h[3]}` (R34). -/
def Header.regA (h : Header) : Word := h.h0 ++ h.h1 ++ h.h2 ++ h.h3

/-- ENC_HDR_B `= zext_32(h[4])` (R35). -/
def Header.regB (h : Header) : Word := h.h4.setWidth 32

/-- `x[r]` (R25, R112): the register map. CMD and the reserved numbers 9 to 15 read 0 (R26, R41). -/
def State.readReg (s : State) (r : RegNum) : Word :=
  match r.val with
  | 1 => s.status.toWord
  | 2 => s.encHdr.regA
  | 3 => s.encHdr.regB
  | 4 => s.encPad.setWidth 32
  | 5 => s.encTotal.setWidth 32
  | 6 => s.prsLen.setWidth 32
  | 7 => s.prsType.setWidth 32
  | 8 => 5
  | _ => 0

/-- The payload view a PARSE reports: (PRS_VIEW_OFF, PRS_LEN) (R40, R108). Nothing bounds its length. -/
def State.view (s : State) : View := ⟨(s.readReg Reg.prsViewOff).toNat, (s.readReg Reg.prsLen).toNat⟩

end Sys2Proof.Machine
end

