-- ==== Sys2Proof/Machine/Encoder.lean ====
section
/-! DEFINITION. The encoder family (spec/40_encoder.md): ENCODE and FRAME. -/

namespace Sys2Proof.Machine

/-- ENCODE (R93): the header, padding and total of `(T, L)` into registers, no buffer access, no fault. -/
def execEncode (t : Byte) (l : Len) (s : State) : Host.Outcome State Fault Refusal :=
  .next (s.latchEnc t l)

/-- FRAME's writes (R95, R97 to R99): the whole payload is read first, then header, payload and padding
are written. Nothing at `total(L)` or above is (R100). -/
def State.writeFrame (s : State) (t : Byte) (l : Len) : State :=
  let p := s.payload l
  let h := encHeader s.params t l
  let n := pad l
  ((s.memWrite 0 h.bytes).memWrite 5 p).memWrite (5 + l.toNat) (List.replicate n 0x00)

/-- FRAME (R95): FrameCapacity when `L + 8 > BUF_SIZE`, before any access (R96, R125, R126); otherwise the
frame in place and the outputs of ENCODE. -/
def execFrame (t : Byte) (l : Len) (s : State) : Host.Outcome State Fault Refusal :=
  .next (if l.toNat + 8 > s.params.bufSize then s.raise .frameCapacity
    else (s.writeFrame t l).latchEnc t l)

end Sys2Proof.Machine
end

