-- ==== Sys2Proof/Machine/Parser.lean ====
section
/-! DEFINITION. The parser family (spec/41_parser.md): PARSE. -/

namespace Sys2Proof.Machine

/-- PARSE (R106): the header at `BUF[0 .. 4]` into PRS_LEN and PRS_TYPE whatever its magic (R107), the magic
check into MAGIC_OK. It writes no buffer byte, checks no length (R108) and raises no fault. -/
def execParse (s : State) : Host.Outcome State Fault Refusal :=
  .next (s.latchPrs s.header)

end Sys2Proof.Machine
end

