-- ==== Sys2Proof/Machine/Dispatch.lean ====
section
/-! DEFINITION. One arm per command: each calls that command's meaning (spec/42_host_port.md R114). -/

namespace Sys2Proof.Machine

def exec (i : Instr) (s : State) : Host.Outcome State Fault Refusal :=
  match i with
  | .encode t l => Sys2Proof.Machine.execEncode t l s
  | .frame t l => Sys2Proof.Machine.execFrame t l s
  | .parse => Sys2Proof.Machine.execParse s

end Sys2Proof.Machine
end

