-- ==== Sys2Proof/Machine/HostPort.lean ====
section
/-! DEFINITION. The host's transactions (spec/42_host_port.md R111 to R117), each one indivisible step (R59). -/

namespace Sys2Proof.Machine

/-- `execute(decode(w))` (R114): a command, or IllegalCommand (R124). -/
def execute (d : Decoded) (s : State) : Host.Outcome State Fault Refusal :=
  match d with
  | .instr i => exec i s
  | .illegal _ => .next (s.raise .illegalCommand)

/-- RegRead (R112): the register's value to the host, no other effect. -/
def doRegRead (r : RegNum) (s : State) : Host.Outcome State Fault Refusal :=
  .next (s.reply (.reg (s.readReg r)))

/-- RegWrite (R113): a write of CMD runs its word; a write of any other number has no effect (R41). -/
def doRegWrite (r : RegNum) (v : Word) (s : State) : Host.Outcome State Fault Refusal :=
  if r = Reg.cmd then execute (decode v) s else .next s

/-- BufRead (R115): the byte to the host, no other effect; stuck past the buffer (R128). -/
def doBufRead (o : Nat) (s : State) : Host.Outcome State Fault Refusal :=
  if o < s.params.bufSize then .next (s.reply (.byte (s.byteAt o))) else .fault (.stuckBufRead o)

/-- BufWrite (R116): one byte, nothing else; stuck past the buffer (R128). -/
def doBufWrite (o : Nat) (b : Byte) (s : State) : Host.Outcome State Fault Refusal :=
  if o < s.params.bufSize then .next (s.memWrite o [b]) else .fault (.stuckBufWrite o)

/-- Reset (R117, R136). -/
def doReset (s : State) : Host.Outcome State Fault Refusal := .next s.clear

/-- One transaction (R111). -/
def perform (tx : Transaction) (s : State) : Host.Outcome State Fault Refusal :=
  match tx with
  | .regRead r => doRegRead r s
  | .regWrite r v => doRegWrite r v s
  | .bufRead o => doBufRead o s
  | .bufWrite o b => doBufWrite o b s
  | .reset => doReset s

/-- The host's next transaction, taken from its list; with none left the run has ended (R120) and the FHU,
which acts only on a transaction (R21), keeps its state. DESIGN CHOICE (log 6): safe. -/
def hostStep (s : State) : Host.Outcome State Fault Refusal :=
  match s.host with
  | [] => .next s
  | tx :: rest => perform tx { s with host := rest }

end Sys2Proof.Machine
end

