-- ==== Sys2Proof/Machine/Step.lean ====
section
/-! DEFINITION. One step of the machine: the host's next transaction (spec/20_memory.md R63). -/

namespace Sys2Proof.Machine

/-- One step. -/
def step (s : State) : Host.Outcome State Fault Refusal := hostStep s

/-- `s` with the command word of an opcode-table row as the host's next transaction, a write of CMD (R21,
R26). The FHU fetches nothing: this stands for the host that issues it (log 7). -/
def State.withFetchWord (s : State) (nbits w : Nat) : State :=
  s.issue (.regWrite Reg.cmd (tableWord nbits w))

end Sys2Proof.Machine
end

