-- ==== Sys2Proof/Safety.lean ====
section
/-! DEFINITION. What claims are stated in: the end of a clean run (spec/42_host_port.md R120), the
invariant of every state, and what the host's next transaction is. -/

namespace Sys2Proof.Machine

/-- The host has performed every transaction of its program: the run has ended (R120). -/
def State.ended (s : State) : Prop := s.host = []

/-- The state at the end of a clean run (R120): ended, ILL = 0 and OVF = 0. That no transaction was stuck is
that the run reached the state at all. -/
def State.clean (s : State) : Prop := s.ended ∧ s.status.ill = false ∧ s.status.ovf = false

/-- The length the latched header carries, `{h[3], h[4]}` (R72). -/
def State.encLen (s : State) : Len := s.encHdr.h3 ++ s.encHdr.h4

/-- The buffer is in canonical form and no offset outside it has been written (R43, R125). -/
def State.BufInv (s : State) : Prop := s.buf.wf ∧ ∀ c ∈ s.buf, c.1 < s.params.bufSize

/-- With VALID_ENC the ENC registers are the outputs of one command, for the type and length in the header
they hold (R28); without it they hold their reset value 0 (R112). -/
def State.EncInv (s : State) : Prop :=
  if s.status.validEnc then
    s.encHdr = encHeader s.params s.encHdr.h2 s.encLen
      ∧ s.encPad = BitVec.ofNat 2 (pad s.encLen)
      ∧ s.encTotal = BitVec.ofNat 17 (total s.encLen)
  else s.encHdr = Header.zero ∧ s.encPad = 0 ∧ s.encTotal = 0

/-- Without VALID_PRS, PRS_LEN, PRS_TYPE and MAGIC_OK hold their reset value 0 (R30, R112). -/
def State.PrsInv (s : State) : Prop :=
  s.status.validPrs = false → s.prsLen = 0 ∧ s.prsType = 0 ∧ s.status.magicOk = false

/-- LAST_FAULT is never 1 without a sticky bit that says which fault it was (R33, R121). -/
def State.FaultInv (s : State) : Prop :=
  s.status.lastFault = true → s.status.ill = true ∨ s.status.ovf = true

/-- The invariant of the machine. -/
structure State.Inv (s : State) : Prop where
  buf : s.BufInv
  enc : s.EncInv
  prs : s.PrsInv
  fault : s.FaultInv

/-- How many bytes of the buffer, from offset 0, a command reads (R50). -/
def bytesRead : Instr → Nat
  | .encode _ _ => 0
  | .frame _ l => l.toNat
  | .parse => 5

/-- The host's next transaction is a Reset. -/
def State.nextIsReset (s : State) : Prop := ∃ rest, s.host = .reset :: rest

/-- The host's next transaction writes a word to CMD that encodes no command (R124). -/
def State.nextIsIllegal (s : State) : Prop :=
  ∃ w why rest, s.host = .regWrite Reg.cmd w :: rest ∧ decode w = .illegal why

/-- The host's next transaction is a FRAME that does not fit the buffer (R125). -/
def State.nextOverflows (s : State) : Prop :=
  ∃ w t l rest, s.host = .regWrite Reg.cmd w :: rest ∧ decode w = .instr (.frame t l)
    ∧ s.params.bufSize < l.toNat + 8

/-- The host's next transaction is an ENCODE, or a FRAME that fits the buffer: one that completes (R28). -/
def State.nextEncodes (s : State) : Prop :=
  ∃ w t l rest, s.host = .regWrite Reg.cmd w :: rest
    ∧ (decode w = .instr (.encode t l)
      ∨ decode w = .instr (.frame t l) ∧ l.toNat + 8 ≤ s.params.bufSize)

/-- The host's next transaction is a PARSE (R29). -/
def State.nextParses (s : State) : Prop :=
  ∃ w rest, s.host = .regWrite Reg.cmd w :: rest ∧ decode w = .instr .parse

/-- The host's next transaction writes CMD (R26). -/
def State.nextIsCommand (s : State) : Prop := ∃ w rest, s.host = .regWrite Reg.cmd w :: rest

end Sys2Proof.Machine
end

