-- ==== Sys2Proof/Certificates/Slice0/Obligations.lean ====
section
/-! DEFINITION. The statements for the provers, from the numbered rules of spec/. Each docstring names the
rule its statement formalises; a clause that rests on a choice of the model's own names the log entry. -/

open Sys2Proof Sys2Proof.Machine

/-! ### Encoding -/

/-- Decoding the word of a well-formed command gives the command back: no bit of an encoding is dropped
(R79, R81). -/
def Obligations.DecodeInvertsEncode : Prop :=
  ∀ i : Instr, i.wellFormed = true → decode (encode i) = .instr i

/-- A word that decodes to a command is that command's word: each command has one encoding (R79, R81). -/
def Obligations.EncodeInvertsDecode : Prop :=
  ∀ (w : Word) (i : Instr), decode w = .instr i → encode i = w

/-- R81: the word as a number, the word as a concatenation, PARSE's one word. -/
def Obligations.CommandWordFormula : Prop :=
  (∀ (t : Byte) (l : Len),
    (encode (.encode t l)).toNat = l.toNat * 65536 + t.toNat * 256 + 1
      ∧ (encode (.frame t l)).toNat = l.toNat * 65536 + t.toNat * 256 + 2
      ∧ encode (.encode t l) = l ++ t ++ 0b0000#4 ++ 0x1#4
      ∧ encode (.frame t l) = l ++ t ++ 0b0000#4 ++ 0x2#4)
    ∧ encode .parse = 0x00000003

/-- R80: match, mask and free fields of each command; no word has two; every other word is Illegal. -/
def Obligations.CommandPatterns : Prop :=
  ∀ w : Word,
    (∀ (t : Byte) (l : Len), decode w = .instr (.encode t l) ↔
      w &&& 0x000000FF = 0x00000001 ∧ l = w.extractLsb' 16 16 ∧ t = w.extractLsb' 8 8)
    ∧ (∀ (t : Byte) (l : Len), decode w = .instr (.frame t l) ↔
      w &&& 0x000000FF = 0x00000002 ∧ l = w.extractLsb' 16 16 ∧ t = w.extractLsb' 8 8)
    ∧ (decode w = .instr .parse ↔ w &&& 0xFFFFFFFF = 0x00000003)
    ∧ ¬ (w &&& 0x000000FF = 0x00000001 ∧ w &&& 0x000000FF = 0x00000002)
    ∧ ¬ (w &&& 0x000000FF = 0x00000001 ∧ w &&& 0xFFFFFFFF = 0x00000003)
    ∧ ¬ (w &&& 0x000000FF = 0x00000002 ∧ w &&& 0xFFFFFFFF = 0x00000003)
    ∧ ((∃ why, decode w = .illegal why) ↔
      w &&& 0x000000FF ≠ 0x00000001 ∧ w &&& 0x000000FF ≠ 0x00000002 ∧ w &&& 0xFFFFFFFF ≠ 0x00000003)

/-- R82: which words are Illegal, and that writing one to CMD raises IllegalCommand: ILL and LAST_FAULT,
and nothing else. -/
def Obligations.IllegalWords : Prop :=
  ∀ w : Word,
    ((∃ why, decode w = .illegal why) ↔
      (w.extractLsb' 4 4 ≠ 0#4
        ∨ w.extractLsb' 0 4 = 0x0#4 ∨ (0x4#4 ≤ w.extractLsb' 0 4 ∧ w.extractLsb' 0 4 ≤ 0xF#4)
        ∨ (w.extractLsb' 0 4 = 0x3#4 ∧ w.extractLsb' 8 24 ≠ 0#24)))
    ∧ ∀ (why : IllegalWord) (s : State), decode w = .illegal why →
      perform (.regWrite Reg.cmd w) s
        = .next { s with status := { s.status with ill := true, lastFault := true } }

/-- Words of the decode table V2 (spec/95_test_vectors.md), one for each command and each way to be Illegal. -/
def Obligations.DecodeTableWords : Prop :=
  decode 0x12345602 = .instr (.frame 0x56 4660)
    ∧ decode 0x80000001 = .instr (.encode 0x00 32768)
    ∧ decode 0x00000003 = .instr .parse
    ∧ decode 0x00000000 = .illegal .reservedOp
    ∧ decode 0x00000013 = .illegal .reservedBits
    ∧ decode 0x00000103 = .illegal .parseOperands

/-- The lines ENCODE, FRAME, PARSE and CMD of the assembly notation (R84) are one write of CMD each, whose
word decodes to the command with the line's own operands, for every line whose numbers fit (R147). -/
def Obligations.LinesAssembleToCommands : Prop :=
  (∀ l t : Nat, (Line.encode l t).wellFormed = true →
    ∃ w, assemble (.encode l t) = [.regWrite Reg.cmd w]
      ∧ decode w = .instr (.encode (BitVec.ofNat 8 t) (BitVec.ofNat 16 l)))
    ∧ (∀ l t : Nat, (Line.frame l t).wellFormed = true →
      ∃ w, assemble (.frame l t) = [.regWrite Reg.cmd w]
        ∧ decode w = .instr (.frame (BitVec.ofNat 8 t) (BitVec.ofNat 16 l)))
    ∧ (∃ w, assemble .parse = [.regWrite Reg.cmd w] ∧ decode w = .instr .parse)
    ∧ ∀ w : Nat, (Line.cmd w).wellFormed = true →
      ∃ v : Word, assemble (.cmd w) = [.regWrite Reg.cmd v] ∧ v.toNat = w

/-! ### The step -/

/-- R114: a write of CMD runs the command its word decodes to, the write itself taken from the host's list;
a word that decodes to none raises IllegalCommand. -/
def Obligations.StepRunsDecodedCommand : Prop :=
  ∀ (s : State) (w : Word) (rest : List Transaction), s.host = .regWrite Reg.cmd w :: rest →
    (∀ i : Instr, decode w = .instr i → i.wellFormed = true → step s = exec i { s with host := rest })
    ∧ ∀ why : IllegalWord, decode w = .illegal why →
      step s = .next { s with host := rest, status := { s.status with ill := true, lastFault := true } }

/-- A word of the opcode table, placed as the host's next transaction, is the command the very next step
runs (log 7: the model's own way to place one). -/
def Obligations.FetchedWordRuns : Prop :=
  ∀ (s : State) (nbits w : Nat) (i : Instr), decodeTableWord nbits w = some i →
    step (s.withFetchWord nbits w) = exec i s

/-- A step performs exactly the host's next transaction, whole, and leaves the others to be issued in order
(R63, R111); it returns at most one value to the host, and only for a read. -/
def Obligations.OneTransactionPerStep : Prop :=
  ∀ (s s' : State) (tx : Transaction) (rest : List Transaction), s.host = tx :: rest → step s = .next s' →
    s'.host = rest
      ∧ match tx with
        | .regRead r => s'.replies = s.replies ++ [.reg (s.readReg r)]
        | .bufRead o => s'.replies = s.replies ++ [.byte (s.byteAt o)]
        | _ => s'.replies = s.replies

/-- THE MODEL'S CHOICE (log 6): with nothing left to issue the run has ended and the state stays. -/
def Obligations.EndedRunStays : Prop :=
  ∀ s : State, s.ended → step s = .next s

/-- The only transactions without a step are buffer accesses past the buffer, and nothing is refused
(R62, R118, R128). -/
def Obligations.OnlyOutOfRangeAccessIsStuck : Prop :=
  ∀ s : State,
    ((∃ f, step s = .fault f) ↔
      ∃ o rest, s.params.bufSize ≤ o
        ∧ (s.host = .bufRead o :: rest ∨ ∃ b, s.host = .bufWrite o b :: rest))
    ∧ ∀ r, step s ≠ .refused r

/-! ### The datapath -/

/-- R87: the equivalent forms of `pad` and its table of cases; it depends on `L[1:0]` alone. -/
def Obligations.PadForms : Prop :=
  ∀ l : Len,
    pad l = 3 - l.toNat % 4
      ∧ BitVec.ofNat 2 (pad l) = ~~~ (l.extractLsb' 0 2)
      ∧ (l.toNat % 4 = 0 → (5 + l.toNat) % 4 = 1 ∧ pad l = 3)
      ∧ (l.toNat % 4 = 1 → (5 + l.toNat) % 4 = 2 ∧ pad l = 2)
      ∧ (l.toNat % 4 = 2 → (5 + l.toNat) % 4 = 3 ∧ pad l = 1)
      ∧ (l.toNat % 4 = 3 → (5 + l.toNat) % 4 = 0 ∧ pad l = 0)
      ∧ ∀ l' : Len, l'.extractLsb' 0 2 = l.extractLsb' 0 2 → pad l' = pad l

/-- R89: the equivalent forms of `total`, its alignment and its bounds. -/
def Obligations.TotalForms : Prop :=
  (∀ l : Len,
    total l = 4 * (l.toNat / 4) + 8
      ∧ BitVec.ofNat 17 (total l) = (l.extractLsb' 2 14 ++ 0b00#2).setWidth 17 + 8#17
      ∧ (BitVec.ofNat 17 (total l)).toNat = total l
      ∧ total l % 4 = 0
      ∧ 8 ≤ total l
      ∧ total l ≤ 65540)
    ∧ total 65535 = 65540

/-- R92: `pad(L)` is at most 3 and is the least number of bytes that makes the frame a multiple of 4. -/
def Obligations.PadIsLeast : Prop :=
  ∀ l : Len, (5 + l.toNat + pad l) % 4 = 0 ∧ pad l ≤ 3
    ∧ ∀ n : Nat, (5 + l.toNat + n) % 4 = 0 → pad l ≤ n

/-- R72: header bytes 3 and 4 are the payload length, big-endian, both ways, for every length. -/
def Obligations.LengthIsBigEndian : Prop :=
  (∀ (p : Config.Params) (t : Byte) (l : Len),
    (encHeader p t l).h3 = l.extractLsb' 8 8 ∧ (encHeader p t l).h4 = l.extractLsb' 0 8
      ∧ l.toNat = 256 * (encHeader p t l).h3.toNat + (encHeader p t l).h4.toNat)
    ∧ ∀ h : Header, decLen h = h.h3 ++ h.h4 ∧ (decLen h).toNat = 256 * h.h3.toNat + h.h4.toNat

/-- The header decoder inverts the header encoder, and the magic check accepts its headers, for all
parameters (R90, R103, R104). -/
def Obligations.HeaderDecodesBack : Prop :=
  ∀ (p : Config.Params) (t : Byte) (l : Len),
    decLen (encHeader p t l) = l ∧ decType (encHeader p t l) = t ∧ magicOk p (encHeader p t l) = true

/-- R104, R105: both magic bytes must match; the decoder and the check read disjoint bytes. -/
def Obligations.MagicCheckIndependent : Prop :=
  ∀ (p : Config.Params) (h h' : Header),
    (magicOk p h = true ↔ h.h0 = p.magic0 ∧ h.h1 = p.magic1)
      ∧ (h.h2 = h'.h2 → decType h = decType h')
      ∧ (h.h3 = h'.h3 → h.h4 = h'.h4 → decLen h = decLen h')
      ∧ (h.h0 = h'.h0 → h.h1 = h'.h1 → magicOk p h = magicOk p h')

/-! ### ENCODE -/

/-- R93: ENCODE completes in every state, for every operand: its outputs, the two STATUS bits it writes, and
everything it leaves unchanged, every buffer byte among it; the words that select it; the rule's example. -/
def Obligations.EncodeResult : Prop :=
  (∀ (s : State) (t : Byte) (l : Len), ∃ s', exec (.encode t l) s = .next s'
    ∧ s'.readReg Reg.encHdrA = s.params.magic0 ++ s.params.magic1 ++ t ++ l.extractLsb' 8 8
    ∧ s'.readReg Reg.encHdrB = (l.extractLsb' 0 8).setWidth 32
    ∧ s'.readReg Reg.encPad = BitVec.ofNat 32 ((4 - ((5 + l.toNat) % 4)) % 4)
    ∧ s'.readReg Reg.encTotal = BitVec.ofNat 32 (5 + l.toNat + (4 - ((5 + l.toNat) % 4)) % 4)
    ∧ s'.status = { s.status with validEnc := true, lastFault := false }
    ∧ s'.prsLen = s.prsLen ∧ s'.prsType = s.prsType ∧ s'.params = s.params
    ∧ s'.buf = s.buf ∧ (∀ o, s'.byteAt o = s.byteAt o)
    ∧ s'.epoch = s.epoch ∧ s'.host = s.host ∧ s'.replies = s.replies)
  ∧ (∀ (s : State) (w : Word), w.extractLsb' 0 4 = 0x1#4 → w.extractLsb' 4 4 = 0#4 →
    perform (.regWrite Reg.cmd w) s = exec (.encode (w.extractLsb' 8 8) (w.extractLsb' 16 16)) s)
  ∧ ∀ s : State, s.params.magic0 = 0xDE → s.params.magic1 = 0xAD →
    ∃ s', perform (.regWrite Reg.cmd 0x00020101) s = .next s'
      ∧ s'.readReg Reg.encHdrA = 0xDEAD0100 ∧ s'.readReg Reg.encHdrB = 0x00000002
      ∧ s'.readReg Reg.encPad = 1 ∧ s'.readReg Reg.encTotal = 8

/-! ### FRAME -/

/-- R97 to R100: a FRAME that fits the buffer completes: the header at 0 to 4, the payload as it was before
the command at 5 to 4 + L, zero padding up to `total(L)`, every other byte unchanged; its register outputs;
the two STATUS bits it writes, and everything else unchanged (R95). -/
def Obligations.FrameResult : Prop :=
  ∀ (s : State) (t : Byte) (l : Len), l.toNat + 8 ≤ s.params.bufSize →
    ∃ s', exec (.frame t l) s = .next s'
      ∧ s'.byteAt 0 = s.params.magic0 ∧ s'.byteAt 1 = s.params.magic1 ∧ s'.byteAt 2 = t
      ∧ s'.byteAt 3 = l.extractLsb' 8 8 ∧ s'.byteAt 4 = l.extractLsb' 0 8
      ∧ (∀ k, k < l.toNat → s'.byteAt (5 + k) = s.byteAt k)
      ∧ (∀ j, j < (4 - ((5 + l.toNat) % 4)) % 4 → s'.byteAt (5 + l.toNat + j) = 0x00)
      ∧ (∀ o, 5 + l.toNat + (4 - ((5 + l.toNat) % 4)) % 4 ≤ o → s'.byteAt o = s.byteAt o)
      ∧ s'.readReg Reg.encHdrA = s.params.magic0 ++ s.params.magic1 ++ t ++ l.extractLsb' 8 8
      ∧ s'.readReg Reg.encHdrB = (l.extractLsb' 0 8).setWidth 32
      ∧ s'.readReg Reg.encPad = BitVec.ofNat 32 ((4 - ((5 + l.toNat) % 4)) % 4)
      ∧ s'.readReg Reg.encTotal = BitVec.ofNat 32 (5 + l.toNat + (4 - ((5 + l.toNat) % 4)) % 4)
      ∧ s'.status = { s.status with validEnc := true, lastFault := false }
      ∧ s'.prsLen = s.prsLen ∧ s'.prsType = s.prsType ∧ s'.params = s.params
      ∧ s'.epoch = s.epoch ∧ s'.host = s.host ∧ s'.replies = s.replies

/-- R96, R125: a FRAME is performed only when `L + 8 <= BUF_SIZE`; otherwise it raises FrameCapacity and
changes OVF and LAST_FAULT alone, also where `total(L)` bytes would have fitted. -/
def Obligations.FrameCapacityFault : Prop :=
  (∀ (s : State) (t : Byte) (l : Len), s.params.bufSize < l.toNat + 8 →
    exec (.frame t l) s = .next { s with status := { s.status with ovf := true, lastFault := true } })
  ∧ ∀ (s s' : State) (t : Byte) (l : Len), exec (.frame t l) s = .next s' →
    (s'.status.lastFault = true ↔ s.params.bufSize < l.toNat + 8)

/-- R94: ENCODE's register outputs are those of a FRAME of the same operands that does not fault. -/
def Obligations.EncodeMatchesFrame : Prop :=
  ∀ (s : State) (t : Byte) (l : Len), l.toNat + 8 ≤ s.params.bufSize →
    ∃ e f, exec (.encode t l) s = .next e ∧ exec (.frame t l) s = .next f
      ∧ e.readReg Reg.encHdrA = f.readReg Reg.encHdrA ∧ e.readReg Reg.encHdrB = f.readReg Reg.encHdrB
      ∧ e.readReg Reg.encPad = f.readReg Reg.encPad ∧ e.readReg Reg.encTotal = f.readReg Reg.encTotal

/-- A block frames every representable payload exactly when BUF_SIZE is at least 65543 (R12). -/
def Obligations.FullRangeNeedsCapacity : Prop :=
  ∀ s : State,
    (∀ (t : Byte) (l : Len), ∃ s', exec (.frame t l) s = .next s' ∧ s'.status.lastFault = false)
      ↔ 65543 ≤ s.params.bufSize

/-! ### PARSE -/

/-- R106: PARSE completes in every state: its outputs from `BUF[0 .. 4]`, the three STATUS bits it writes, and
everything it leaves unchanged, every buffer byte among it; the one word that selects it; the rule's example. -/
def Obligations.ParseResult : Prop :=
  (∀ s : State, ∃ s', exec .parse s = .next s'
    ∧ s'.readReg Reg.prsLen = BitVec.ofNat 32 (256 * (s.byteAt 3).toNat + (s.byteAt 4).toNat)
    ∧ s'.readReg Reg.prsType = (s.byteAt 2).setWidth 32
    ∧ (s'.status.magicOk = true ↔ s.byteAt 0 = s.params.magic0 ∧ s.byteAt 1 = s.params.magic1)
    ∧ s'.status = { s.status with magicOk := s'.status.magicOk, validPrs := true, lastFault := false }
    ∧ s'.view = ⟨5, 256 * (s.byteAt 3).toNat + (s.byteAt 4).toNat⟩
    ∧ s'.encHdr = s.encHdr ∧ s'.encPad = s.encPad ∧ s'.encTotal = s.encTotal ∧ s'.params = s.params
    ∧ s'.buf = s.buf ∧ (∀ o, s'.byteAt o = s.byteAt o)
    ∧ s'.epoch = s.epoch ∧ s'.host = s.host ∧ s'.replies = s.replies)
  ∧ (∀ (s : State) (w : Word), w &&& 0xFFFFFFFF = 0x00000003 →
    perform (.regWrite Reg.cmd w) s = exec .parse s)
  ∧ ∀ s : State, s.params.magic0 = 0xDE → s.params.magic1 = 0xAD → s.byteAt 0 = 0xDE → s.byteAt 1 = 0xAD →
    s.byteAt 2 = 0x01 → s.byteAt 3 = 0x00 → s.byteAt 4 = 0x02 →
    ∃ s', perform (.regWrite Reg.cmd 0x00000003) s = .next s'
      ∧ s'.readReg Reg.prsLen = 2 ∧ s'.readReg Reg.prsType = 1 ∧ s'.status.magicOk = true
      ∧ s'.view = ⟨5, 2⟩

/-- R107: a header whose magic bytes do not match is decoded exactly as one whose bytes do; only MAGIC_OK can
differ. -/
def Obligations.ParseIgnoresMagic : Prop :=
  ∀ s u : State, s.byteAt 2 = u.byteAt 2 → s.byteAt 3 = u.byteAt 3 → s.byteAt 4 = u.byteAt 4 →
    ∃ s' u', exec .parse s = .next s' ∧ exec .parse u = .next u'
      ∧ s'.readReg Reg.prsLen = u'.readReg Reg.prsLen ∧ s'.readReg Reg.prsType = u'.readReg Reg.prsType
      ∧ (s.status = u.status →
        s'.status = { u'.status with magicOk := s'.status.magicOk })

/-- R108: the view a PARSE reports is (5, the decoded length), whatever BUF_SIZE is; nothing is copied; a
BufRead past the buffer through it is stuck. -/
def Obligations.ParseReportsView : Prop :=
  ∀ s : State, ∃ s', exec .parse s = .next s'
    ∧ s'.view = ⟨5, 256 * (s.byteAt 3).toNat + (s.byteAt 4).toNat⟩
    ∧ s'.buf = s.buf
    ∧ ∀ k, k < s'.view.length → s.params.bufSize ≤ 5 + k →
      perform (.bufRead (5 + k)) s' = .fault (.stuckBufRead (5 + k))

/-- R68: the view is a reference into BUF: a BufRead of offset `5 + k` after a PARSE returns the byte BUF
holds then, the old one or the one a BufWrite after the PARSE has put there. -/
def Obligations.ViewAliasesBuffer : Prop :=
  ∀ (s : State) (k : Nat) (b : Byte), 5 + k < s.params.bufSize →
    ∃ u v, exec .parse s = .next u
      ∧ perform (.bufRead (5 + k)) u = .next { u with replies := u.replies ++ [.byte (s.byteAt (5 + k))] }
      ∧ perform (.bufWrite (5 + k) b) u = .next v ∧ v.view = u.view
      ∧ perform (.bufRead (5 + k)) v = .next { v with replies := v.replies ++ [.byte b] }

/-- A second PARSE gives the same state (R106: "two PARSE commands in a row give the same results"). -/
def Obligations.ParseTwiceIsParse : Prop :=
  ∀ s s' : State, exec .parse s = .next s' → exec .parse s' = .next s'

/-- R110: `FRAME L, T` followed by PARSE gives back the length, the type and the payload, with the magic
check passed, for every block, every operand that fits and every buffer. -/
def Obligations.FrameThenParse : Prop :=
  ∀ (s : State) (t : Byte) (l : Len), l.toNat + 8 ≤ s.params.bufSize →
    ∃ f g, exec (.frame t l) s = .next f ∧ exec .parse f = .next g
      ∧ g.readReg Reg.prsLen = l.setWidth 32 ∧ g.readReg Reg.prsType = t.setWidth 32
      ∧ g.status.magicOk = true ∧ ∀ k, k < l.toNat → g.byteAt (5 + k) = s.byteAt k

/-! ### All commands -/

/-- R42: no command reads STATUS or a result register: two states with the same parameters that agree on
the buffer bytes the command reads give the same outputs, whatever else differs between them. -/
def Obligations.CommandsAreStateless : Prop :=
  ∀ (i : Instr) (s u : State), s.params = u.params → (∀ o, o < bytesRead i → s.byteAt o = u.byteAt o) →
    ∃ s' u', exec i s = .next s' ∧ exec i u = .next u' ∧ s'.status.lastFault = u'.status.lastFault
      ∧ match i with
        | .encode _ _ =>
          s'.encHdr = u'.encHdr ∧ s'.encPad = u'.encPad ∧ s'.encTotal = u'.encTotal
        | .frame _ l =>
          s'.status.lastFault = false →
            s'.encHdr = u'.encHdr ∧ s'.encPad = u'.encPad ∧ s'.encTotal = u'.encTotal
              ∧ ∀ o, o < total l → s'.byteAt o = u'.byteAt o
        | .parse =>
          s'.prsLen = u'.prsLen ∧ s'.prsType = u'.prsType ∧ s'.status.magicOk = u'.status.magicOk

/-! ### Host transactions -/

/-- R112: RegRead returns `x[r]` and has no other effect; the map `x`, each bit of STATUS in its place; and
a result register whose VALID bit is 0 reads 0 in every state that meets the invariant. -/
def Obligations.RegReadMap : Prop :=
  (∀ (s : State) (r : RegNum) (rest : List Transaction), s.host = .regRead r :: rest →
    step s = .next { s with host := rest, replies := s.replies ++ [.reg (s.readReg r)] })
  ∧ (∀ s : State,
    s.readReg 0 = 0
      ∧ (s.readReg 1).getLsbD 0 = s.status.validEnc ∧ (s.readReg 1).getLsbD 1 = s.status.validPrs
      ∧ (s.readReg 1).getLsbD 2 = s.status.magicOk ∧ (s.readReg 1).getLsbD 3 = s.status.ill
      ∧ (s.readReg 1).getLsbD 4 = s.status.ovf ∧ (s.readReg 1).getLsbD 5 = s.status.lastFault
      ∧ (∀ n, 6 ≤ n → (s.readReg 1).getLsbD n = false)
      ∧ s.readReg 2 = s.encHdr.h0 ++ s.encHdr.h1 ++ s.encHdr.h2 ++ s.encHdr.h3
      ∧ s.readReg 3 = s.encHdr.h4.setWidth 32
      ∧ s.readReg 4 = s.encPad.setWidth 32 ∧ s.readReg 5 = s.encTotal.setWidth 32
      ∧ s.readReg 6 = s.prsLen.setWidth 32 ∧ s.readReg 7 = s.prsType.setWidth 32
      ∧ s.readReg 8 = 5
      ∧ ∀ r : RegNum, 9 ≤ r.val → s.readReg r = 0)
  ∧ ∀ s : State, s.Inv →
    (s.status.validEnc = false →
      s.readReg 2 = 0 ∧ s.readReg 3 = 0 ∧ s.readReg 4 = 0 ∧ s.readReg 5 = 0)
    ∧ (s.status.validPrs = false → s.readReg 6 = 0 ∧ s.readReg 7 = 0)

/-- R41: a host write to any register but CMD has no effect; a reserved number reads 0. -/
def Obligations.RegWriteIgnored : Prop :=
  (∀ (s : State) (r : RegNum) (v : Word) (rest : List Transaction), s.host = .regWrite r v :: rest →
    1 ≤ r.val → step s = .next { s with host := rest })
  ∧ ∀ (s : State) (r : RegNum), 9 ≤ r.val → s.readReg r = 0

/-- R116: BufWrite in range changes one byte and nothing else; past the buffer it is stuck. -/
def Obligations.BufWriteResult : Prop :=
  ∀ (s : State) (o : Nat) (b : Byte) (rest : List Transaction), s.host = .bufWrite o b :: rest →
    (o < s.params.bufSize → ∃ s', step s = .next s'
      ∧ s'.byteAt o = b ∧ (∀ a, a ≠ o → s'.byteAt a = s.byteAt a)
      ∧ s'.status = s.status ∧ (∀ r, s'.readReg r = s.readReg r) ∧ s'.params = s.params
      ∧ s'.epoch = s.epoch ∧ s'.host = rest ∧ s'.replies = s.replies)
    ∧ (s.params.bufSize ≤ o → step s = .fault (.stuckBufWrite o))

/-- R115: BufRead in range returns the byte and changes nothing, so that a second read returns the same
byte; past the buffer it is stuck. -/
def Obligations.BufReadResult : Prop :=
  ∀ (s : State) (o : Nat) (rest : List Transaction), s.host = .bufRead o :: rest →
    (o < s.params.bufSize →
      step s = .next { s with host := rest, replies := s.replies ++ [.byte (s.byteAt o)] }
        ∧ ∀ s', step s = .next s' → s'.byteAt o = s.byteAt o)
    ∧ (s.params.bufSize ≤ o → step s = .fault (.stuckBufRead o))

/-- A Reset leaves the block as at power-on, its parameters and the host as they were (R136, R137). The last
clause is THE MODEL'S form of "unspecified" (log 3): every buffer byte is a fresh free value. -/
def Obligations.ResetResult : Prop :=
  ∀ (s : State) (rest : List Transaction), s.host = .reset :: rest → ∃ s', step s = .next s'
    ∧ s' = { State.powerOn s.params with epoch := s'.epoch, host := rest, replies := s.replies }
    ∧ (∀ r : RegNum, s'.readReg r = if r = Reg.prsViewOff then 5 else 0)
    ∧ s'.epoch ≠ s.epoch ∧ ∀ o, s'.byteAt o = Config.freeByte s'.epoch o

/-- The register values at power-on, for every block, and that the machine starts so (R46, R137). -/
def Obligations.PowerOnRegisters : Prop :=
  (∀ p : Config.Params, (State.powerOn p).params = p
    ∧ ∀ r : RegNum, (State.powerOn p).readReg r = if r = Reg.prsViewOff then 5 else 0)
  ∧ State.reset = State.powerOn Config.params

/-! ### Rules of the whole machine -/

/-- R31, R32: STATUS bits 3 (ILL) and 4 (OVF) are 0 after a Reset, are set by their own fault, and no other transaction writes
them: once set they stay set. -/
def Obligations.FaultBitsSticky : Prop :=
  ∀ s s' : State, step s = .next s' →
    ((s'.readReg Reg.status).getLsbD 3 = true ↔
      ¬ s.nextIsReset ∧ ((s.readReg Reg.status).getLsbD 3 = true ∨ s.nextIsIllegal))
    ∧ ((s'.readReg Reg.status).getLsbD 4 = true ↔
      ¬ s.nextIsReset ∧ ((s.readReg Reg.status).getLsbD 4 = true ∨ s.nextOverflows))

/-- R33: every command writes STATUS bit 5, LAST_FAULT, 1 when it raised a fault and 0 when it completed; no other
transaction changes it, but a Reset clears it. -/
def Obligations.LastFaultOfLastCommand : Prop :=
  ∀ s s' : State, step s = .next s' →
    (s.nextIsCommand → ((s'.readReg Reg.status).getLsbD 5 = true ↔ s.nextIsIllegal ∨ s.nextOverflows))
    ∧ (s.nextIsReset → (s'.readReg Reg.status).getLsbD 5 = false)
    ∧ (¬ s.nextIsCommand → ¬ s.nextIsReset →
      (s'.readReg Reg.status).getLsbD 5 = (s.readReg Reg.status).getLsbD 5)

/-- What writes VALID_ENC, VALID_PRS and the result registers (R28, R29): only a completed command of their
kind and Reset. -/
def Obligations.ResultsWrittenByCompletion : Prop :=
  ∀ s s' : State, step s = .next s' →
    (s'.status.validEnc = true ↔ ¬ s.nextIsReset ∧ (s.status.validEnc = true ∨ s.nextEncodes))
    ∧ (s'.status.validPrs = true ↔ ¬ s.nextIsReset ∧ (s.status.validPrs = true ∨ s.nextParses))
    ∧ (¬ s.nextIsReset → ¬ s.nextEncodes →
      s'.encHdr = s.encHdr ∧ s'.encPad = s.encPad ∧ s'.encTotal = s.encTotal)
    ∧ (¬ s.nextIsReset → ¬ s.nextParses →
      s'.prsLen = s.prsLen ∧ s'.prsType = s.prsType ∧ s'.status.magicOk = s.status.magicOk)

/-- R121, R126, R130: a command that raises a fault raises one, IllegalCommand exactly when its word is
illegal; it sets that fault's sticky bit and LAST_FAULT and changes nothing else, and the host's later
transactions are still to be issued. -/
def Obligations.FaultIsPrecise : Prop :=
  ∀ (s s' : State) (w : Word) (rest : List Transaction), s.host = .regWrite Reg.cmd w :: rest →
    step s = .next s' → s'.status.lastFault = true →
    ((∃ why, decode w = .illegal why)
      ∧ s' = { s with host := rest, status := { s.status with ill := true, lastFault := true } })
    ∨ ((∃ t l, decode w = .instr (.frame t l))
      ∧ s' = { s with host := rest, status := { s.status with ovf := true, lastFault := true } })

/-- The cause code of a fault is the index of the STATUS bit it sets (R122): STATUS gains that bit and bit 5,
LAST_FAULT, and no other. -/
def Obligations.CauseCodeIsStatusBit : Prop :=
  ∀ (s : State) (c : Cause),
    (s.raise c).readReg Reg.status
      = s.readReg Reg.status ||| BitVec.twoPow 32 c.code ||| BitVec.twoPow 32 5

/-- R44: no transaction changes the parameters, Reset included. -/
def Obligations.ParametersAreFixed : Prop :=
  ∀ s s' : State, step s = .next s' → s'.params = s.params

/-! ### The invariant -/

/-- Every step keeps the invariant: the buffer's canonical form with no offset outside BUF written (R43,
R125); ENC registers that are one command's outputs or 0 (R28, R112); PRS registers 0 without VALID_PRS;
LAST_FAULT never without a sticky bit (R33). -/
def Obligations.StepKeepsInvariant : Prop :=
  ∀ s s' : State, s.Inv → step s = .next s' → s'.Inv

/-- The invariant holds at power-on, for every block, and at the machine's reset state. -/
def Obligations.PowerOnHasInvariant : Prop :=
  (∀ p : Config.Params, (State.powerOn p).Inv) ∧ State.reset.Inv

/-- In a state that meets the invariant, with VALID_ENC set, ENC_TOTAL is a multiple of 4 from 8 to 65540, and
ENC_PAD, ENC_TOTAL and the header's length agree (R37, R36, R92). -/
def Obligations.EncTotalIsLegal : Prop :=
  ∀ s : State, s.Inv → s.status.validEnc = true →
    (s.readReg Reg.encTotal).toNat % 4 = 0
      ∧ 8 ≤ (s.readReg Reg.encTotal).toNat ∧ (s.readReg Reg.encTotal).toNat ≤ 65540
      ∧ (s.readReg Reg.encTotal).toNat = 5 + (256 * s.encHdr.h3.toNat + s.encHdr.h4.toNat)
        + (s.readReg Reg.encPad).toNat
end

