-- ==== Sys2Proof/Laws/PerInstr.lean ====
section
/-! SUPPORT. What every command's word has, per constructor: OP in bits [3:0], RSV zero (spec/30_encoding.md
R76, R78). -/

namespace Sys2Proof.Laws.EncodedOp

/-- The word of a command carries its OP value and a zero RSV field. -/
def Statement (i : Instr) : Prop := opOf (encode i) = opcode i ∧ rsvOf (encode i) = 0

end Sys2Proof.Laws.EncodedOp

theorem Sys2Proof.Laws.commandWord_low (op : BitVec 4) (t : Sys2Proof.Byte) (l : Sys2Proof.Len) :
    Sys2Proof.opOf (Sys2Proof.commandWord op t l) = op
      ∧ Sys2Proof.rsvOf (Sys2Proof.commandWord op t l) = 0 := by
  constructor
  · ext i hi
    simp only [Sys2Proof.opOf, Sys2Proof.commandWord, BitVec.getElem_extractLsb', BitVec.getLsbD_append]
    simp [hi, BitVec.getLsbD_eq_getElem]
  · ext i hi
    simp only [Sys2Proof.rsvOf, Sys2Proof.commandWord, BitVec.getElem_extractLsb', BitVec.getLsbD_append]
    have h1 : ¬ 4 + i < 4 := by omega
    simp [h1, hi]

theorem Sys2Proof.Laws.EncodedOp.encode (t : Sys2Proof.Byte) (l : Sys2Proof.Len) :
    Sys2Proof.Laws.EncodedOp.Statement (.encode t l) := Sys2Proof.Laws.commandWord_low _ t l

theorem Sys2Proof.Laws.EncodedOp.frame (t : Sys2Proof.Byte) (l : Sys2Proof.Len) :
    Sys2Proof.Laws.EncodedOp.Statement (.frame t l) := Sys2Proof.Laws.commandWord_low _ t l

theorem Sys2Proof.Laws.EncodedOp.parse : Sys2Proof.Laws.EncodedOp.Statement .parse := by
  constructor <;> decide
end

