-- ==== Sys2Proof/Laws/CommandWord.lean ====
section
/-! SUPPORT. The fields of a command word (spec/30_encoding.md R76, R77): the word built from fields has those
fields, and a word with RSV zero is built from its own. -/

namespace Sys2Proof

@[simp] theorem opOf_commandWord (op : BitVec 4) (t : Byte) (l : Len) : opOf (commandWord op t l) = op :=
  (Laws.commandWord_low op t l).1

@[simp] theorem rsvOf_commandWord (op : BitVec 4) (t : Byte) (l : Len) : rsvOf (commandWord op t l) = 0#4 :=
  (Laws.commandWord_low op t l).2

@[simp] theorem typeOf_commandWord (op : BitVec 4) (t : Byte) (l : Len) : typeOf (commandWord op t l) = t := by
  ext i hi
  have h1 : ¬ 8 + i < 4 := by omega
  have h2 : ¬ 8 + i - 4 < 4 := by omega
  have h3 : 8 + i - 4 - 4 = i := by omega
  simp only [typeOf, commandWord, BitVec.getElem_extractLsb', BitVec.getLsbD_append]
  simp [h1, h2, h3, hi]

@[simp] theorem lenOf_commandWord (op : BitVec 4) (t : Byte) (l : Len) : lenOf (commandWord op t l) = l := by
  ext i hi
  have h1 : ¬ 16 + i < 4 := by omega
  have h2 : ¬ 16 + i - 4 < 4 := by omega
  have h3 : ¬ 16 + i - 4 - 4 < 8 := by omega
  have h4 : 16 + i - 4 - 4 - 8 = i := by omega
  simp only [lenOf, commandWord, BitVec.getElem_extractLsb', BitVec.getLsbD_append]
  simp [h1, h2, h3, h4, hi]

/-- A word with RSV zero is its three other fields put together again. -/
theorem commandWord_of_fields {w : Word} (h : rsvOf w = 0#4) :
    commandWord (opOf w) (typeOf w) (lenOf w) = w := by
  apply BitVec.eq_of_getLsbD_eq
  intro i hi
  have hr : ∀ j, j < 4 → w.getLsbD (4 + j) = false := by
    intro j hj
    have := congrArg (fun v => v.getLsbD j) h
    simpa [rsvOf, hj] using this
  simp only [commandWord, opOf, typeOf, lenOf, BitVec.getLsbD_append, BitVec.getLsbD_extractLsb']
  by_cases h1 : i < 4
  · simp [h1]
  · by_cases h2 : i - 4 < 4
    · have h3 := hr (i - 4) h2
      have h4 : 4 + (i - 4) = i := by omega
      simp [h1, h2, ← h3, h4]
    · by_cases h3 : i - 4 - 4 < 8
      · have h4 : 8 + (i - 4 - 4) = i := by omega
        simp [h1, h2, h3, h4]
      · have h4 : 16 + (i - 4 - 4 - 8) = i := by omega
        have h5 : i - 4 - 4 - 8 < 16 := by omega
        simp [h1, h2, h3, h4, h5]

end Sys2Proof
end

