-- ==== Sys2Proof/Laws/State.lean ====
section
/-! SUPPORT. What each named update of the state does to each field, true by unfolding once and for all, so
that no later proof unfolds an update. -/

namespace Sys2Proof.Machine

section
variable (s : State) (a : Nat) (bs : List Byte)

@[simp] theorem State.memWrite_params : (s.memWrite a bs).params = s.params := rfl
@[simp] theorem State.memWrite_buf : (s.memWrite a bs).buf = s.buf.write a bs := rfl
@[simp] theorem State.memWrite_status : (s.memWrite a bs).status = s.status := rfl
@[simp] theorem State.memWrite_encHdr : (s.memWrite a bs).encHdr = s.encHdr := rfl
@[simp] theorem State.memWrite_encPad : (s.memWrite a bs).encPad = s.encPad := rfl
@[simp] theorem State.memWrite_encTotal : (s.memWrite a bs).encTotal = s.encTotal := rfl
@[simp] theorem State.memWrite_prsLen : (s.memWrite a bs).prsLen = s.prsLen := rfl
@[simp] theorem State.memWrite_prsType : (s.memWrite a bs).prsType = s.prsType := rfl
@[simp] theorem State.memWrite_epoch : (s.memWrite a bs).epoch = s.epoch := rfl
@[simp] theorem State.memWrite_host : (s.memWrite a bs).host = s.host := rfl
@[simp] theorem State.memWrite_replies : (s.memWrite a bs).replies = s.replies := rfl

end

section
variable (s : State) (t : Byte) (l : Len)

@[simp] theorem State.latchEnc_params : (s.latchEnc t l).params = s.params := rfl
@[simp] theorem State.latchEnc_buf : (s.latchEnc t l).buf = s.buf := rfl
@[simp] theorem State.latchEnc_status : (s.latchEnc t l).status = s.status.afterEnc := rfl
@[simp] theorem State.latchEnc_encHdr : (s.latchEnc t l).encHdr = encHeader s.params t l := rfl
@[simp] theorem State.latchEnc_encPad : (s.latchEnc t l).encPad = BitVec.ofNat 2 (pad l) := rfl
@[simp] theorem State.latchEnc_encTotal : (s.latchEnc t l).encTotal = BitVec.ofNat 17 (total l) := rfl
@[simp] theorem State.latchEnc_prsLen : (s.latchEnc t l).prsLen = s.prsLen := rfl
@[simp] theorem State.latchEnc_prsType : (s.latchEnc t l).prsType = s.prsType := rfl
@[simp] theorem State.latchEnc_epoch : (s.latchEnc t l).epoch = s.epoch := rfl
@[simp] theorem State.latchEnc_host : (s.latchEnc t l).host = s.host := rfl
@[simp] theorem State.latchEnc_replies : (s.latchEnc t l).replies = s.replies := rfl

end

section
variable (s : State) (h : Header)

@[simp] theorem State.latchPrs_params : (s.latchPrs h).params = s.params := rfl
@[simp] theorem State.latchPrs_buf : (s.latchPrs h).buf = s.buf := rfl
@[simp] theorem State.latchPrs_status : (s.latchPrs h).status = s.status.afterPrs (magicOk s.params h) := rfl
@[simp] theorem State.latchPrs_encHdr : (s.latchPrs h).encHdr = s.encHdr := rfl
@[simp] theorem State.latchPrs_encPad : (s.latchPrs h).encPad = s.encPad := rfl
@[simp] theorem State.latchPrs_encTotal : (s.latchPrs h).encTotal = s.encTotal := rfl
@[simp] theorem State.latchPrs_prsLen : (s.latchPrs h).prsLen = decLen h := rfl
@[simp] theorem State.latchPrs_prsType : (s.latchPrs h).prsType = decType h := rfl
@[simp] theorem State.latchPrs_epoch : (s.latchPrs h).epoch = s.epoch := rfl
@[simp] theorem State.latchPrs_host : (s.latchPrs h).host = s.host := rfl
@[simp] theorem State.latchPrs_replies : (s.latchPrs h).replies = s.replies := rfl

end

section
variable (s : State) (c : Cause)

@[simp] theorem State.raise_params : (s.raise c).params = s.params := rfl
@[simp] theorem State.raise_buf : (s.raise c).buf = s.buf := rfl
@[simp] theorem State.raise_status : (s.raise c).status = s.status.afterFault c := rfl
@[simp] theorem State.raise_encHdr : (s.raise c).encHdr = s.encHdr := rfl
@[simp] theorem State.raise_encPad : (s.raise c).encPad = s.encPad := rfl
@[simp] theorem State.raise_encTotal : (s.raise c).encTotal = s.encTotal := rfl
@[simp] theorem State.raise_prsLen : (s.raise c).prsLen = s.prsLen := rfl
@[simp] theorem State.raise_prsType : (s.raise c).prsType = s.prsType := rfl
@[simp] theorem State.raise_epoch : (s.raise c).epoch = s.epoch := rfl
@[simp] theorem State.raise_host : (s.raise c).host = s.host := rfl
@[simp] theorem State.raise_replies : (s.raise c).replies = s.replies := rfl

end

section
variable (s : State) (r : Reply)

@[simp] theorem State.reply_params : (s.reply r).params = s.params := rfl
@[simp] theorem State.reply_buf : (s.reply r).buf = s.buf := rfl
@[simp] theorem State.reply_status : (s.reply r).status = s.status := rfl
@[simp] theorem State.reply_encHdr : (s.reply r).encHdr = s.encHdr := rfl
@[simp] theorem State.reply_encPad : (s.reply r).encPad = s.encPad := rfl
@[simp] theorem State.reply_encTotal : (s.reply r).encTotal = s.encTotal := rfl
@[simp] theorem State.reply_prsLen : (s.reply r).prsLen = s.prsLen := rfl
@[simp] theorem State.reply_prsType : (s.reply r).prsType = s.prsType := rfl
@[simp] theorem State.reply_epoch : (s.reply r).epoch = s.epoch := rfl
@[simp] theorem State.reply_host : (s.reply r).host = s.host := rfl
@[simp] theorem State.reply_replies : (s.reply r).replies = s.replies ++ [r] := rfl

end

section
variable (s : State)

@[simp] theorem State.clear_params : (s.clear).params = s.params := rfl
@[simp] theorem State.clear_buf : (s.clear).buf = [] := rfl
@[simp] theorem State.clear_status : (s.clear).status = Status.zero := rfl
@[simp] theorem State.clear_encHdr : (s.clear).encHdr = Header.zero := rfl
@[simp] theorem State.clear_encPad : (s.clear).encPad = 0 := rfl
@[simp] theorem State.clear_encTotal : (s.clear).encTotal = 0 := rfl
@[simp] theorem State.clear_prsLen : (s.clear).prsLen = 0 := rfl
@[simp] theorem State.clear_prsType : (s.clear).prsType = 0 := rfl
@[simp] theorem State.clear_epoch : (s.clear).epoch = s.epoch + 1 := rfl
@[simp] theorem State.clear_host : (s.clear).host = s.host := rfl
@[simp] theorem State.clear_replies : (s.clear).replies = s.replies := rfl

end

section
variable (s : State) (tx : Transaction)

@[simp] theorem State.issue_params : (s.issue tx).params = s.params := rfl
@[simp] theorem State.issue_buf : (s.issue tx).buf = s.buf := rfl
@[simp] theorem State.issue_status : (s.issue tx).status = s.status := rfl
@[simp] theorem State.issue_encHdr : (s.issue tx).encHdr = s.encHdr := rfl
@[simp] theorem State.issue_encPad : (s.issue tx).encPad = s.encPad := rfl
@[simp] theorem State.issue_encTotal : (s.issue tx).encTotal = s.encTotal := rfl
@[simp] theorem State.issue_prsLen : (s.issue tx).prsLen = s.prsLen := rfl
@[simp] theorem State.issue_prsType : (s.issue tx).prsType = s.prsType := rfl
@[simp] theorem State.issue_epoch : (s.issue tx).epoch = s.epoch := rfl
@[simp] theorem State.issue_host : (s.issue tx).host = tx :: s.host := rfl
@[simp] theorem State.issue_replies : (s.issue tx).replies = s.replies := rfl

end

section
variable (s : State) (t : Byte) (l : Len)

@[simp] theorem State.writeFrame_params : (s.writeFrame t l).params = s.params := rfl
@[simp] theorem State.writeFrame_buf : (s.writeFrame t l).buf =
      ((s.buf.write 0 (encHeader s.params t l).bytes).write 5 (s.payload l)).write (5 + l.toNat)
        (List.replicate (pad l) 0x00) := rfl
@[simp] theorem State.writeFrame_status : (s.writeFrame t l).status = s.status := rfl
@[simp] theorem State.writeFrame_encHdr : (s.writeFrame t l).encHdr = s.encHdr := rfl
@[simp] theorem State.writeFrame_encPad : (s.writeFrame t l).encPad = s.encPad := rfl
@[simp] theorem State.writeFrame_encTotal : (s.writeFrame t l).encTotal = s.encTotal := rfl
@[simp] theorem State.writeFrame_prsLen : (s.writeFrame t l).prsLen = s.prsLen := rfl
@[simp] theorem State.writeFrame_prsType : (s.writeFrame t l).prsType = s.prsType := rfl
@[simp] theorem State.writeFrame_epoch : (s.writeFrame t l).epoch = s.epoch := rfl
@[simp] theorem State.writeFrame_host : (s.writeFrame t l).host = s.host := rfl
@[simp] theorem State.writeFrame_replies : (s.writeFrame t l).replies = s.replies := rfl

end

@[simp] theorem State.powerOn_params (p : Config.Params) : (State.powerOn p).params = p := rfl
@[simp] theorem State.powerOn_buf (p : Config.Params) : (State.powerOn p).buf = [] := rfl
@[simp] theorem State.powerOn_status (p : Config.Params) : (State.powerOn p).status = Status.zero := rfl
@[simp] theorem State.powerOn_encHdr (p : Config.Params) : (State.powerOn p).encHdr = Header.zero := rfl
@[simp] theorem State.powerOn_encPad (p : Config.Params) : (State.powerOn p).encPad = 0 := rfl
@[simp] theorem State.powerOn_encTotal (p : Config.Params) : (State.powerOn p).encTotal = 0 := rfl
@[simp] theorem State.powerOn_prsLen (p : Config.Params) : (State.powerOn p).prsLen = 0 := rfl
@[simp] theorem State.powerOn_prsType (p : Config.Params) : (State.powerOn p).prsType = 0 := rfl
@[simp] theorem State.powerOn_epoch (p : Config.Params) : (State.powerOn p).epoch = 0 := rfl
@[simp] theorem State.powerOn_host (p : Config.Params) : (State.powerOn p).host = [] := rfl
@[simp] theorem State.powerOn_replies (p : Config.Params) : (State.powerOn p).replies = [] := rfl

@[simp] theorem Status.zero_validEnc : Status.zero.validEnc = false := rfl
@[simp] theorem Status.zero_validPrs : Status.zero.validPrs = false := rfl
@[simp] theorem Status.zero_magicOk : Status.zero.magicOk = false := rfl
@[simp] theorem Status.zero_ill : Status.zero.ill = false := rfl
@[simp] theorem Status.zero_ovf : Status.zero.ovf = false := rfl
@[simp] theorem Status.zero_lastFault : Status.zero.lastFault = false := rfl

section
variable (st : Status)

@[simp] theorem Status.afterEnc_validEnc : (st.afterEnc).validEnc = true := rfl
@[simp] theorem Status.afterEnc_validPrs : (st.afterEnc).validPrs = st.validPrs := rfl
@[simp] theorem Status.afterEnc_magicOk : (st.afterEnc).magicOk = st.magicOk := rfl
@[simp] theorem Status.afterEnc_ill : (st.afterEnc).ill = st.ill := rfl
@[simp] theorem Status.afterEnc_ovf : (st.afterEnc).ovf = st.ovf := rfl
@[simp] theorem Status.afterEnc_lastFault : (st.afterEnc).lastFault = false := rfl
@[simp] theorem Status.afterPrs_validEnc (ok : Bool) : (st.afterPrs ok).validEnc = st.validEnc := rfl
@[simp] theorem Status.afterPrs_validPrs (ok : Bool) : (st.afterPrs ok).validPrs = true := rfl
@[simp] theorem Status.afterPrs_magicOk (ok : Bool) : (st.afterPrs ok).magicOk = ok := rfl
@[simp] theorem Status.afterPrs_ill (ok : Bool) : (st.afterPrs ok).ill = st.ill := rfl
@[simp] theorem Status.afterPrs_ovf (ok : Bool) : (st.afterPrs ok).ovf = st.ovf := rfl
@[simp] theorem Status.afterPrs_lastFault (ok : Bool) : (st.afterPrs ok).lastFault = false := rfl
@[simp] theorem Status.illegalCommand_validEnc : (st.afterFault .illegalCommand).validEnc = st.validEnc := rfl
@[simp] theorem Status.illegalCommand_validPrs : (st.afterFault .illegalCommand).validPrs = st.validPrs := rfl
@[simp] theorem Status.illegalCommand_magicOk : (st.afterFault .illegalCommand).magicOk = st.magicOk := rfl
@[simp] theorem Status.illegalCommand_ill : (st.afterFault .illegalCommand).ill = true := rfl
@[simp] theorem Status.illegalCommand_ovf : (st.afterFault .illegalCommand).ovf = st.ovf := rfl
@[simp] theorem Status.illegalCommand_lastFault : (st.afterFault .illegalCommand).lastFault = true := rfl
@[simp] theorem Status.frameCapacity_validEnc : (st.afterFault .frameCapacity).validEnc = st.validEnc := rfl
@[simp] theorem Status.frameCapacity_validPrs : (st.afterFault .frameCapacity).validPrs = st.validPrs := rfl
@[simp] theorem Status.frameCapacity_magicOk : (st.afterFault .frameCapacity).magicOk = st.magicOk := rfl
@[simp] theorem Status.frameCapacity_ill : (st.afterFault .frameCapacity).ill = st.ill := rfl
@[simp] theorem Status.frameCapacity_ovf : (st.afterFault .frameCapacity).ovf = true := rfl
@[simp] theorem Status.frameCapacity_lastFault : (st.afterFault .frameCapacity).lastFault = true := rfl
@[simp] theorem Status.afterFault_lastFault (c : Cause) : (st.afterFault c).lastFault = true := by cases c <;> rfl
@[simp] theorem Status.afterFault_validEnc (c : Cause) : (st.afterFault c).validEnc = st.validEnc := by cases c <;> rfl
@[simp] theorem Status.afterFault_validPrs (c : Cause) : (st.afterFault c).validPrs = st.validPrs := by cases c <;> rfl
@[simp] theorem Status.afterFault_magicOk (c : Cause) : (st.afterFault c).magicOk = st.magicOk := by cases c <;> rfl

end

end Sys2Proof.Machine
end

