-- ==== Sys2Proof/Laws/Memory.lean ====
section
/-! SUPPORT. The laws of the frame buffer: a read after a write (spec/20_memory.md R63), the canonical form,
the range of the offsets written. -/

namespace Sys2Proof.Machine

theorem Memory.lookup_append (m n : Memory) (o : Nat) :
    Memory.lookup (m ++ n) o = (Memory.lookup m o).or (Memory.lookup n o) := by
  induction m with
  | nil => simp [Memory.lookup]
  | cons c m ih =>
    by_cases h : c.1 = o <;> simp [Memory.lookup, h, ih]

/-- A filter on offsets keeps what is stored at the offsets it keeps, and nothing elsewhere. -/
theorem Memory.lookup_filter (m : Memory) (p : Nat → Bool) (o : Nat) :
    Memory.lookup (m.filter (fun c => p c.1)) o = if p o then Memory.lookup m o else none := by
  induction m with
  | nil => simp [Memory.lookup]
  | cons c m ih =>
    by_cases hc : c.1 = o
    · subst hc
      by_cases hp : p c.1 <;> simp [Memory.lookup, hp, ih]
    · by_cases hp : p c.1 <;> simp [Memory.lookup, hp, hc, ih]

theorem Memory.lookup_cells (bs : List Byte) (a o : Nat) :
    Memory.lookup (Memory.cells a bs) o = if a ≤ o then bs[o - a]? else none := by
  induction bs generalizing a with
  | nil => simp [Memory.cells, Memory.lookup]
  | cons b bs ih =>
    rcases Nat.lt_trichotomy o a with h | rfl | h
    · have h1 : ¬ a = o := by omega
      have h2 : ¬ a ≤ o := by omega
      have h3 : ¬ a + 1 ≤ o := by omega
      simp [Memory.cells, Memory.lookup, ih, h1, h2, h3]
    · simp [Memory.cells, Memory.lookup]
    · obtain ⟨k, rfl⟩ : ∃ k, o = a + (k + 1) := ⟨o - a - 1, by omega⟩
      have h2 : a + (k + 1) - a = k + 1 := by omega
      have h3 : a + (k + 1) - (a + 1) = k := by omega
      simp [Memory.cells, Memory.lookup, ih, h2, h3]

/-- Everything a write does: the bytes written at their offsets, every other offset as before. -/
theorem Memory.lookup_write (m : Memory) (a : Nat) (bs : List Byte) (o : Nat) :
    Memory.lookup (m.write a bs) o =
      if a ≤ o ∧ o < a + bs.length then bs[o - a]? else Memory.lookup m o := by
  have hlow := Memory.lookup_filter m (fun x => decide (x < a)) o
  have hhigh := Memory.lookup_filter m (fun x => decide (a + bs.length ≤ x)) o
  simp only [Memory.write, Memory.lookup_append, hlow, hhigh, Memory.lookup_cells, decide_eq_true_eq]
  by_cases h1 : o < a
  · have h2 : ¬ a ≤ o := by omega
    have h3 : ¬ a + bs.length ≤ o := by omega
    simp [h1, h2, h3]
  · by_cases h2 : o < a + bs.length
    · have h3 : a ≤ o := by omega
      have h4 : o - a < bs.length := by omega
      simp [h1, h2, h3, h4]
    · have h3 : bs.length ≤ o - a := by omega
      have h4 : a + bs.length ≤ o := by omega
      have h5 : a ≤ o := by omega
      simp [h1, h2, h3, h4, h5]

theorem Memory.mem_cells {bs : List Byte} {a : Nat} {c : Host.Cell} (h : c ∈ Memory.cells a bs) :
    a ≤ c.1 ∧ c.1 < a + bs.length := by
  induction bs generalizing a with
  | nil => simp [Memory.cells] at h
  | cons b bs ih =>
    rcases List.mem_cons.mp h with rfl | h
    · simp
    · have := ih h
      simp only [List.length_cons]
      omega

theorem Memory.cells_wf (bs : List Byte) (a : Nat) : (Memory.cells a bs).wf := by
  induction bs generalizing a with
  | nil => exact List.Pairwise.nil
  | cons b bs ih =>
    refine List.pairwise_cons.mpr ⟨fun c hc => ?_, ih (a + 1)⟩
    have := Memory.mem_cells hc
    simp only
    omega

/-- A write keeps the canonical form. -/
theorem Memory.write_wf {m : Memory} (h : m.wf) (a : Nat) (bs : List Byte) : (m.write a bs).wf := by
  refine List.pairwise_append.mpr ⟨List.pairwise_append.mpr
    ⟨h.filter _, Memory.cells_wf bs a, fun c hc d hd => ?_⟩, h.filter _, fun c hc d hd => ?_⟩
  · have h1 := of_decide_eq_true (List.mem_filter.mp hc).2
    have h2 := Memory.mem_cells hd
    omega
  · have h2 := of_decide_eq_true (List.mem_filter.mp hd).2
    rcases List.mem_append.mp hc with hc | hc
    · have h1 := of_decide_eq_true (List.mem_filter.mp hc).2
      omega
    · have h1 := Memory.mem_cells hc
      omega

theorem Memory.empty_wf : Memory.wf [] := List.Pairwise.nil

/-- The offsets listed after a write were listed before or are those written. -/
theorem Memory.mem_write {m : Memory} {a : Nat} {bs : List Byte} {c : Host.Cell} (h : c ∈ m.write a bs) :
    c ∈ m ∨ (a ≤ c.1 ∧ c.1 < a + bs.length) := by
  rcases List.mem_append.mp h with h | h
  · rcases List.mem_append.mp h with h | h
    · exact .inl (List.mem_filter.mp h).1
    · exact .inr (Memory.mem_cells h)
  · exact .inl (List.mem_filter.mp h).1

/-- A write inside the buffer keeps the buffer's invariant (R43). -/
theorem State.memWrite_bufInv {s : State} (h : s.buf.wf ∧ ∀ c ∈ s.buf, c.1 < s.params.bufSize) {a : Nat}
    {bs : List Byte} (hle : a + bs.length ≤ s.params.bufSize) :
    (s.memWrite a bs).buf.wf ∧ ∀ c ∈ (s.memWrite a bs).buf, c.1 < s.params.bufSize := by
  refine ⟨Memory.write_wf h.1 a bs, fun c hc => ?_⟩
  rcases Memory.mem_write hc with hc | hc
  · exact h.2 c hc
  · omega

end Sys2Proof.Machine
end

