-- ==== Sys2Proof/Laws/Ops.lean ====
section
/-! SUPPORT. One lemma for each shared operation that says what it answers: MemWrite and MemRead
(spec/00_scope.md R15), the datapath functions (spec/40_encoder.md R86 to R91), the register map
(spec/10_state.md R25). -/

namespace Sys2Proof.Machine

/-- A byte of the buffer depends on nothing but the listed bytes and the epoch. -/
theorem State.byteAt_congr {s s' : State} (hb : s'.buf = s.buf) (he : s'.epoch = s.epoch) (o : Nat) :
    s'.byteAt o = s.byteAt o := by
  simp [State.byteAt, hb, he]

/-- Everything MemWrite does to a later read of the buffer. -/
theorem State.byteAt_memWrite (s : State) (a : Nat) (bs : List Byte) (o : Nat) :
    (s.memWrite a bs).byteAt o =
      if h : a ≤ o ∧ o < a + bs.length then bs[o - a]'(by omega) else s.byteAt o := by
  simp only [State.byteAt, State.memWrite_buf, State.memWrite_epoch, Memory.lookup_write]
  by_cases h : a ≤ o ∧ o < a + bs.length
  · have h' : o - a < bs.length := by omega
    simp [h, h']
  · simp [h]

@[simp] theorem State.length_memRead (s : State) (a n : Nat) : (s.memRead a n).length = n := by
  induction n generalizing a with
  | zero => rfl
  | succ n ih => simp [State.memRead, ih]

@[simp] theorem State.getElem_memRead (s : State) (a n k : Nat) (h : k < (s.memRead a n).length) :
    (s.memRead a n)[k] = s.byteAt (a + k) := by
  induction n generalizing a k with
  | zero => simp [State.memRead] at h
  | succ n ih =>
    cases k with
    | zero => simp [State.memRead]
    | succ k =>
      simp only [State.memRead, List.getElem_cons_succ, ih]
      congr 1
      omega

@[simp] theorem State.length_payload (s : State) (l : Len) : (s.payload l).length = l.toNat :=
  s.length_memRead 0 l.toNat

@[simp] theorem State.getElem_payload (s : State) (l : Len) (k : Nat) (h : k < (s.payload l).length) :
    (s.payload l)[k] = s.byteAt k := by
  simp [State.payload]

@[simp] theorem Header.length_bytes (h : Header) : h.bytes.length = 5 := rfl

theorem pad_le (l : Len) : pad l ≤ 3 := by
  simp only [pad]
  omega

theorem total_eq (l : Len) : total l = 5 + l.toNat + pad l := rfl

/-- The threshold of FrameCapacity covers every byte a FRAME writes (R96). -/
theorem total_le (l : Len) : total l ≤ l.toNat + 8 := by
  have := pad_le l
  simp only [total]
  omega

/-- No computation of the encoder overflows its width (R91). -/
theorem total_lt (l : Len) : total l < 2 ^ 17 := by
  have h1 := total_le l
  have h2 := l.isLt
  omega

/-- A register reads what the six register fields hold, whatever else the state holds. -/
theorem State.readReg_congr {s s' : State} (hst : s'.status = s.status) (hh : s'.encHdr = s.encHdr)
    (hp : s'.encPad = s.encPad) (ht : s'.encTotal = s.encTotal) (hl : s'.prsLen = s.prsLen)
    (hty : s'.prsType = s.prsType) (r : RegNum) : s'.readReg r = s.readReg r := by
  simp [State.readReg, hst, hh, hp, ht, hl, hty]

theorem State.readReg_cmd (s : State) : s.readReg Reg.cmd = 0 := rfl
theorem State.readReg_status (s : State) : s.readReg Reg.status = s.status.toWord := rfl
theorem State.readReg_encHdrA (s : State) : s.readReg Reg.encHdrA = s.encHdr.regA := rfl
theorem State.readReg_encHdrB (s : State) : s.readReg Reg.encHdrB = s.encHdr.regB := rfl
theorem State.readReg_encPad (s : State) : s.readReg Reg.encPad = s.encPad.setWidth 32 := rfl
theorem State.readReg_encTotal (s : State) : s.readReg Reg.encTotal = s.encTotal.setWidth 32 := rfl
theorem State.readReg_prsLen (s : State) : s.readReg Reg.prsLen = s.prsLen.setWidth 32 := rfl
theorem State.readReg_prsType (s : State) : s.readReg Reg.prsType = s.prsType.setWidth 32 := rfl
theorem State.readReg_prsViewOff (s : State) : s.readReg Reg.prsViewOff = 5 := rfl

end Sys2Proof.Machine
end

