-- ==== Sys2Proof/Laws/Step.lean ====
section
/-! SUPPORT. Everything one transaction can do, and everything one step can do (spec/42_host_port.md R111 to
R117): proofs over all steps split on these cases and never unfold the step. -/

namespace Sys2Proof.Machine

/-- What a transaction that has a step leaves behind, one case for each thing that can happen. -/
inductive Effect (s : State) : Transaction → State → Prop where
  | regRead (r : RegNum) : Effect s (.regRead r) (s.reply (.reg (s.readReg r)))
  | ignored (r : RegNum) (v : Word) (h : r ≠ Reg.cmd) : Effect s (.regWrite r v) s
  | illegal (v : Word) (why : IllegalWord) (h : decode v = .illegal why) :
      Effect s (.regWrite Reg.cmd v) (s.raise .illegalCommand)
  | encoded (v : Word) (t : Byte) (l : Len) (h : decode v = .instr (.encode t l)) :
      Effect s (.regWrite Reg.cmd v) (s.latchEnc t l)
  | framed (v : Word) (t : Byte) (l : Len) (h : decode v = .instr (.frame t l))
      (fits : l.toNat + 8 ≤ s.params.bufSize) :
      Effect s (.regWrite Reg.cmd v) ((s.writeFrame t l).latchEnc t l)
  | overflowed (v : Word) (t : Byte) (l : Len) (h : decode v = .instr (.frame t l))
      (exceeds : s.params.bufSize < l.toNat + 8) :
      Effect s (.regWrite Reg.cmd v) (s.raise .frameCapacity)
  | parsed (v : Word) (h : decode v = .instr .parse) :
      Effect s (.regWrite Reg.cmd v) (s.latchPrs s.header)
  | bufRead (o : Nat) (h : o < s.params.bufSize) : Effect s (.bufRead o) (s.reply (.byte (s.byteAt o)))
  | bufWrite (o : Nat) (b : Byte) (h : o < s.params.bufSize) : Effect s (.bufWrite o b) (s.memWrite o [b])
  | reset : Effect s .reset s.clear

theorem effect_of_perform {tx : Transaction} {s s' : State} (h : perform tx s = .next s') :
    Effect s tx s' := by
  cases tx with
  | regRead r => cases h; exact .regRead r
  | regWrite r v =>
    simp only [perform, doRegWrite] at h
    split at h
    · next hr =>
      subst hr
      cases hd : decode v with
      | illegal why =>
        simp only [hd, execute] at h
        cases h
        exact .illegal v why hd
      | instr i =>
        cases i with
        | encode t l =>
          simp only [hd, execute, exec, execEncode] at h
          cases h
          exact .encoded v t l hd
        | frame t l =>
          simp only [hd, execute, exec, execFrame] at h
          split at h
          · next hc => cases h; exact .overflowed v t l hd hc
          · next hc => cases h; exact .framed v t l hd (Nat.le_of_not_lt hc)
        | parse =>
          simp only [hd, execute, exec, execParse] at h
          cases h
          exact .parsed v hd
    · next hr => cases h; exact .ignored r v hr
  | bufRead o =>
    simp only [perform, doBufRead] at h
    split at h
    · next ho => cases h; exact .bufRead o ho
    · cases h
  | bufWrite o b =>
    simp only [perform, doBufWrite] at h
    split at h
    · next ho => cases h; exact .bufWrite o b ho
    · cases h
  | reset => cases h; exact .reset

/-- A step is idle with no transaction left, and otherwise performs the first one with the rest still to
issue. -/
theorem step_cases {s s' : State} (h : step s = .next s') :
    (s.host = [] ∧ s' = s) ∨
      ∃ tx rest, s.host = tx :: rest ∧ Effect { s with host := rest } tx s' := by
  simp only [step, hostStep] at h
  split at h
  · next hh => cases h; exact .inl ⟨hh, rfl⟩
  · next tx rest hh => exact .inr ⟨tx, rest, hh, effect_of_perform h⟩

theorem step_of_host {s : State} {tx : Transaction} {rest : List Transaction} (h : s.host = tx :: rest) :
    step s = perform tx { s with host := rest } := by
  simp [step, hostStep, h]

/-- An invariant that every effect keeps, and that does not speak of the host's list, is kept by every step. -/
theorem step_keeps {P : State → Prop} (hhost : ∀ s rest, P s → P { s with host := rest })
    (heff : ∀ s tx s', P s → Effect s tx s' → P s') {s s' : State} (hs : P s) (h : step s = .next s') : P s' := by
  rcases step_cases h with ⟨-, rfl⟩ | ⟨tx, rest, -, he⟩
  · exact hs
  · exact heff _ _ _ (hhost s rest hs) he

end Sys2Proof.Machine
end

