-- ==== Sys2Proof/Tests/Slice0.lean ====
section
/-! SUPPORT. Tests: each expected value is written out in spec/95_test_vectors.md, in the example of the rule
named, or by hand from the encoding. Then, for each statement with hypotheses, a state and operands that meet
them, at the boundary of each clause. -/

namespace Sys2Proof.Tests

open Sys2Proof Sys2Proof.Machine

/-- The block of the test vectors: magic DE AD, BUF_SIZE 16. -/
def block : Config.Params := ⟨0xDE, 0xAD, 8⟩

/-- The block after reset with these bytes at offset 0 and these transactions to issue. -/
def start (bs : List Byte) (host : List Transaction) : State :=
  { State.powerOn block with buf := Memory.cells 0 bs, host := host }

/-- V4's buffer. -/
def filled : List Byte :=
  [0x11, 0x22, 0x33, 0x44, 0x55, 0x66, 0x77, 0x88, 0x99, 0xAA, 0xBB, 0xCC, 0xDD, 0xEE, 0xF0, 0xF1]

/-- What `f` says of the next state, none where there is none. -/
def after {α : Type} (o : Host.Outcome State Fault Refusal) (f : State → α) : Option α :=
  match o with
  | .next s => some (f s)
  | _ => none

/-- The fault of a step that has none. -/
def stuckBy (o : Host.Outcome State Fault Refusal) : Option Fault :=
  match o with
  | .fault f => some f
  | _ => none

/-- STATUS as the host reads it. -/
def statusReg (s : State) : Word := s.readReg Reg.status

/-! ### Well-formedness: each check refuses an ill-formed term -/

theorem test_line_encode_long : (Line.encode 65536 0).wellFormed = false := by decide
theorem test_line_encode_type : (Line.encode 0 256).wellFormed = false := by decide
theorem test_line_frame_long : (Line.frame 65536 0).wellFormed = false := by decide
theorem test_line_frame_type : (Line.frame 0 256).wellFormed = false := by decide
theorem test_line_cmd_wide : (Line.cmd 4294967296).wellFormed = false := by decide
theorem test_line_wr_number : (Line.wr 16 0).wellFormed = false := by decide
theorem test_line_wr_wide : (Line.wr 0 4294967296).wellFormed = false := by decide
theorem test_line_rd_number : (Line.rd 16).wellFormed = false := by decide
theorem test_line_bwr_byte : (Line.bwr 0 256).wellFormed = false := by decide
theorem test_line_bwrs_byte : (Line.bwrs 0 [255, 256]).wellFormed = false := by decide
theorem test_line_load_byte : (Line.loadPayload [256]).wellFormed = false := by decide
theorem test_bufRead_range : (Transaction.bufRead 16).wellFormed block = false := by decide
theorem test_bufWrite_range : (Transaction.bufWrite 16 0).wellFormed block = false := by decide
theorem test_bufRead_last : (Transaction.bufRead 15).wellFormed block = true := by decide

/-! ### Decoding (V2; each word written out from the field layout of R76) -/

theorem test_decode_encode : decode 0b00000000000000001111111100000001 = .instr (.encode 0xFF 0) := by decide
theorem test_decode_frame : decode 0b11111111111111110000000000000010 = .instr (.frame 0x00 65535) := by decide
theorem test_decode_parse : decode 0b00000000000000000000000000000011 = .instr .parse := by decide
theorem test_decode_op0 : decode 0x00000000 = .illegal .reservedOp := by decide
theorem test_decode_op15 : decode 0x0000000F = .illegal .reservedOp := by decide
theorem test_decode_rsv : decode 0x00000010 = .illegal .reservedBits := by decide
theorem test_decode_parse_bit31 : decode 0x80000003 = .illegal .parseOperands := by decide
theorem test_decode_parse_len : decode 0x00010003 = .illegal .parseOperands := by decide
theorem test_table_word : decodeTableWord 32 0x00020102 = some (.frame 0x01 2) := by decide

/-- R85's expansions: LOAD_PAYLOAD AA BB, and SEND of two bytes. -/
theorem test_load_payload :
    assemble (.loadPayload [0xAA, 0xBB]) = [.bufWrite 0 0xAA, .bufWrite 1 0xBB] := by decide
theorem test_send : assemble (.send 2) = [.regRead Reg.encTotal, .bufRead 0, .bufRead 1] := by decide

/-! ### The datapath (V1) -/

theorem test_pad : [0, 1, 2, 3, 256, 65535].map pad = [3, 2, 1, 0, 3, 0] := by decide
theorem test_total :
    [9, 255, 256, 65531, 65532, 65535].map total = [16, 260, 264, 65536, 65540, 65540] := by decide

/-! ### Commands -/

/-- V3: ENCODE 256, 0x03. -/
theorem test_encode :
    after (exec (.encode 0x03 256) (start [] [])) (fun s => [s.readReg 2, s.readReg 3, s.readReg 4, s.readReg 5,
      statusReg s]) = some [0xDEAD0301, 0x00, 3, 264, 0x01] := by decide

/-- V3: ENCODE 65535, 0xFF, which no buffer of 16 bytes could frame. -/
theorem test_encode_longest :
    after (exec (.encode 0xFF 65535) (start [] [])) (fun s => [s.readReg 2, s.readReg 3, s.readReg 4, s.readReg 5,
      statusReg s]) = some [0xDEADFFFF, 0xFF, 0, 65540, 0x01] := by decide

/-- V4: FRAME 6, 0x0C relocates over itself and leaves the bytes at `total(L)` and above. -/
theorem test_frame :
    after (exec (.frame 0x0C 6) (start filled [])) (fun s => (s.memRead 0 16, s.readReg 4, s.readReg 5))
      = some ([0xDE, 0xAD, 0x0C, 0x00, 0x06, 0x11, 0x22, 0x33, 0x44, 0x55, 0x66, 0x00, 0xDD, 0xEE, 0xF0, 0xF1],
          1, 12) := by decide

/-- V4: FRAME 9, 0x01 faults although `total(9) = 16` would fit. -/
theorem test_frame_capacity :
    after (exec (.frame 0x01 9) (start filled [])) (fun s => (s.memRead 0 16, s.readReg 5, statusReg s))
      = some (filled, 0, 0x30) := by decide

/-- V5: big-endian length, matching magic. -/
theorem test_parse :
    after (exec .parse (start [0xDE, 0xAD, 0x03, 0x01, 0x00] [])) (fun s => [s.readReg 6, s.readReg 7, statusReg s])
      = some [256, 0x03, 0x06] := by decide

/-- V5: the second magic byte wrong, the fields still decoded. -/
theorem test_parse_bad_magic :
    after (exec .parse (start [0xDE, 0xAC, 0x01, 0x00, 0x02] [])) (fun s => [s.readReg 6, s.readReg 7, statusReg s])
      = some [2, 0x01, 0x02] := by decide

/-! ### Transactions (V6, V7) -/

theorem test_rd_view_off :
    after (step (start [] [.regRead 8])) (fun s => s.replies) = some [.reg 5] := by decide
theorem test_wr_ignored :
    after (step (start [] [.regWrite 5 0x1234])) (fun s => s.readReg 5) = some 0 := by decide
theorem test_wr_cmd_zero :
    after (step (start [] [.regWrite 0 0x00000000])) statusReg = some 0x28 := by decide
theorem test_bwr_last :
    after (step (start [] [.bufWrite 15 0x5A])) (fun s => s.byteAt 15) = some 0x5A := by decide
theorem test_brd_stuck : stuckBy (step (start [] [.bufRead 16])) = some (.stuckBufRead 16) := by decide
theorem test_bwr_stuck : stuckBy (step (start [] [.bufWrite 16 0])) = some (.stuckBufWrite 16) := by decide

/-- V7's last two lines: ILL, OVF and VALID_ENC set, then an illegal word, and then RESET. -/
def faulty (host : List Transaction) : State :=
  { start filled host with status := ⟨true, false, false, true, true, false⟩ }

theorem test_ill_again : after (step (faulty [.regWrite 0 0x00000103])) statusReg = some 0x39 := by decide
theorem test_reset : after (step (faulty [.reset])) (fun s => (statusReg s, s.buf)) = some (0, []) := by decide

/-- A table word runs as the first transaction after reset, whatever the block's parameters. -/
theorem test_first_frame :
    after (step (State.reset.withFetchWord 32 0x00000002)) (fun s => s.host) = some [] := by rfl

/-! ### Witnesses: states and operands that meet the hypotheses of each statement -/

theorem witness_DecodeInvertsEncode : (Instr.frame 0xFF 65535).wellFormed = true := by decide
theorem witness_EncodeInvertsDecode : decode 0xFFFFFF02 = .instr (.frame 0xFF 65535) := by decide
theorem witness_IllegalWords : decode 0xFFFFFF03 = .illegal .parseOperands := by decide
theorem witness_LinesAssembleToCommands :
    (Line.encode 65535 255).wellFormed = true ∧ (Line.frame 65535 255).wellFormed = true
      ∧ (Line.cmd 4294967295).wellFormed = true := by decide

theorem witness_StepRunsDecodedCommand :
    (start [] [.regWrite 0 0x00020101]).host = .regWrite Reg.cmd 0x00020101 :: []
      ∧ decode 0x00020101 = .instr (.encode 1 2) ∧ (Instr.encode 1 2).wellFormed = true := by decide
theorem witness_StepRunsDecodedCommand_illegal :
    (start [] [.regWrite 0 0x00000013]).host = .regWrite Reg.cmd 0x00000013 :: []
      ∧ decode 0x00000013 = .illegal .reservedBits := by decide
theorem witness_FetchedWordRuns : decodeTableWord 32 0x00000002 = some (.frame 0 0) := by decide
theorem witness_OneTransactionPerStep :
    ∃ s', step (start filled [.bufRead 15, .reset]) = .next s' := ⟨_, rfl⟩
theorem witness_OneTransactionPerStep_regRead : ∃ s', step (start [] [.regRead 15]) = .next s' := ⟨_, rfl⟩
theorem witness_EndedRunStays : (start [] []).ended := rfl

theorem witness_PadForms_low_bits :
    (65535 : Len).extractLsb' 0 2 = (3 : Len).extractLsb' 0 2 ∧ (65535 : Len).toNat % 4 = 3
      ∧ (65532 : Len).toNat % 4 = 0 ∧ (65533 : Len).toNat % 4 = 1 ∧ (65534 : Len).toNat % 4 = 2 := by decide
theorem witness_PadIsLeast : (5 + (65532 : Len).toNat + 3) % 4 = 0 := by decide
theorem witness_MagicCheckIndependent :
    let h : Header := ⟨0xDE, 0xAD, 1, 0, 2⟩
    let g : Header := ⟨0xDE, 0xAD, 1, 0, 2⟩
    h.h0 = g.h0 ∧ h.h1 = g.h1 ∧ h.h2 = g.h2 ∧ h.h3 = g.h3 ∧ h.h4 = g.h4 := by decide

theorem witness_EncodeResult_word :
    (0xFFFFFF01 : Word).extractLsb' 0 4 = 0x1#4 ∧ (0xFFFFFF01 : Word).extractLsb' 4 4 = 0#4 := by decide
theorem witness_EncodeResult_magic :
    (start [] []).params.magic0 = 0xDE ∧ (start [] []).params.magic1 = 0xAD := by decide

/-- L = 8 fills the buffer exactly; it meets the hypothesis of FrameResult, EncodeMatchesFrame and
FrameThenParse. L = 9 is the first that does not. -/
theorem witness_FrameResult : (8 : Len).toNat + 8 ≤ (start filled []).params.bufSize := by decide
theorem witness_FrameCapacityFault : (start filled []).params.bufSize < (9 : Len).toNat + 8 := by decide
theorem witness_FrameCapacityFault_next : ∃ s', exec (.frame 1 8) (start filled []) = .next s' := ⟨_, rfl⟩

theorem witness_ParseResult_word : (0x00000003 : Word) &&& 0xFFFFFFFF = 0x00000003 := by decide
theorem witness_ParseResult_example :
    let s := start [0xDE, 0xAD, 0x01, 0x00, 0x02] []
    s.params.magic0 = 0xDE ∧ s.params.magic1 = 0xAD ∧ s.byteAt 0 = 0xDE ∧ s.byteAt 1 = 0xAD
      ∧ s.byteAt 2 = 0x01 ∧ s.byteAt 3 = 0x00 ∧ s.byteAt 4 = 0x02 := by decide
theorem witness_ParseIgnoresMagic :
    let s := start [0xDE, 0xAD, 0x01, 0x00, 0x02] []
    let u := start [0xAD, 0xDE, 0x01, 0x00, 0x02] []
    s.byteAt 2 = u.byteAt 2 ∧ s.byteAt 3 = u.byteAt 3 ∧ s.byteAt 4 = u.byteAt 4 ∧ s.status = u.status := by
  decide
theorem witness_ParseReportsView :
    after (exec .parse (start [0xDE, 0xAD, 0x0C, 0xFF, 0xFF] []))
      (fun s => decide (11 < s.view.length ∧ s.params.bufSize ≤ 5 + 11)) = some true := by decide
theorem witness_ViewAliasesBuffer : 5 + 10 < (start filled []).params.bufSize := by decide
theorem witness_ParseTwiceIsParse : ∃ s', exec .parse (start filled []) = .next s' := ⟨_, rfl⟩

/-- Two states that differ in STATUS, in a result register and in a byte no FRAME of length 2 reads. -/
theorem witness_CommandsAreStateless :
    let s := start [0xAA, 0xBB, 0x01] []
    let u := { start [0xAA, 0xBB, 0x02] [] with status := ⟨true, true, true, true, true, true⟩, prsLen := 7 }
    s.params = u.params ∧ ∀ o, o < bytesRead (.frame 1 2) → s.byteAt o = u.byteAt o := by decide

theorem witness_RegReadMap : (start [] [.regRead 8]).host = .regRead 8 :: [] := by decide
theorem witness_RegReadMap_last : 9 ≤ (15 : RegNum).val ∧ 9 ≤ (9 : RegNum).val := by decide
theorem witness_invariant : (start filled [.bufWrite 15 0]).Inv :=
  ⟨⟨by decide, by decide⟩, by simp [State.EncInv, start, State.powerOn, Status.zero],
    by simp [State.PrsInv, start, State.powerOn, Status.zero],
    by simp [State.FaultInv, start, State.powerOn, Status.zero]⟩
theorem witness_RegReadMap_invalid :
    (start filled [.bufWrite 15 0]).Inv ∧ (start filled [.bufWrite 15 0]).status.validEnc = false
      ∧ (start filled [.bufWrite 15 0]).status.validPrs = false := ⟨witness_invariant, by decide, by decide⟩
theorem witness_RegWriteIgnored :
    (start [] [.regWrite 1 0xFFFFFFFF]).host = .regWrite 1 0xFFFFFFFF :: [] ∧ 1 ≤ (1 : RegNum).val
      ∧ 1 ≤ (15 : RegNum).val := by decide
theorem witness_BufWriteResult :
    (start [] [.bufWrite 15 1]).host = .bufWrite 15 1 :: [] ∧ 15 < (start [] [.bufWrite 15 1]).params.bufSize := by
  decide
theorem witness_BufWriteResult_stuck :
    (start [] [.bufWrite 16 1]).host = .bufWrite 16 1 :: [] ∧ (start [] [.bufWrite 16 1]).params.bufSize ≤ 16 := by
  decide
theorem witness_BufReadResult :
    (start [] [.bufRead 15]).host = .bufRead 15 :: [] ∧ 15 < (start [] [.bufRead 15]).params.bufSize := by decide
theorem witness_BufReadResult_stuck :
    (start [] [.bufRead 16]).host = .bufRead 16 :: [] ∧ (start [] [.bufRead 16]).params.bufSize ≤ 16 := by decide
theorem witness_ResetResult : (faulty [.reset]).host = .reset :: [] := by decide

/-- A step of each kind that FaultBitsSticky, LastFaultOfLastCommand and ResultsWrittenByCompletion tell
apart; ParametersAreFixed takes any of them. -/
theorem witness_step_reset :
    (faulty [.reset]).nextIsReset ∧ ∃ s', step (faulty [.reset]) = .next s' := ⟨⟨[], rfl⟩, _, rfl⟩
theorem witness_step_illegal :
    (faulty [.regWrite 0 0]).nextIsIllegal ∧ (faulty [.regWrite 0 0]).nextIsCommand
      ∧ ∃ s', step (faulty [.regWrite 0 0]) = .next s' :=
  ⟨⟨0, .reservedOp, [], rfl, by decide⟩, ⟨0, [], rfl⟩, _, rfl⟩
theorem witness_step_overflows :
    (faulty [.regWrite 0 0x00090102]).nextOverflows
      ∧ ∃ s', step (faulty [.regWrite 0 0x00090102]) = .next s' :=
  ⟨⟨0x00090102, 1, 9, [], rfl, by decide, by decide⟩, _, rfl⟩
theorem witness_step_encodes :
    (faulty [.regWrite 0 0x00080102]).nextEncodes ∧ ∃ s', step (faulty [.regWrite 0 0x00080102]) = .next s' :=
  ⟨⟨0x00080102, 1, 8, [], rfl, .inr ⟨by decide, by decide⟩⟩, _, rfl⟩
theorem witness_step_parses :
    (faulty [.regWrite 0 3]).nextParses ∧ ∃ s', step (faulty [.regWrite 0 3]) = .next s' :=
  ⟨⟨3, [], rfl, by decide⟩, _, rfl⟩
theorem witness_step_other :
    ¬ (faulty [.regRead 1]).nextIsCommand ∧ ¬ (faulty [.regRead 1]).nextIsReset
      ∧ ∃ s', step (faulty [.regRead 1]) = .next s' :=
  ⟨by simp [State.nextIsCommand, faulty, start], by simp [State.nextIsReset, faulty, start], _, rfl⟩

/-- FaultIsPrecise: a command that raises each fault. -/
theorem witness_FaultIsPrecise :
    after (step (start [] [.regWrite 0 0])) (fun s => s.status.lastFault) = some true
      ∧ after (step (start [] [.regWrite 0 0x00090102])) (fun s => s.status.lastFault) = some true := by decide

theorem witness_StepKeepsInvariant :
    (start filled [.bufWrite 15 0]).Inv ∧ ∃ s', step (start filled [.bufWrite 15 0]) = .next s' :=
  ⟨witness_invariant, _, rfl⟩
theorem witness_EncTotalIsLegal :
    ((start [] []).latchEnc 0xFF 65535).Inv ∧ ((start [] []).latchEnc 0xFF 65535).status.validEnc = true :=
  ⟨⟨⟨by decide, by decide⟩, by
      have h : ((start [] []).latchEnc 0xFF 65535).status.validEnc = true := rfl
      simp only [State.EncInv, h, if_true]
      decide, fun _ => by decide, fun h => by simp [State.latchEnc, Status.afterEnc] at h⟩, rfl⟩

end Sys2Proof.Tests
end

section
/-! SUPPORT. What FRAME answers on each side of its capacity bound (spec/40_encoder.md R96), and the block that
frames every payload length (spec/00_scope.md R12). -/

namespace Sys2Proof.Machine

section
variable {s : State} {t : Byte} {l : Len}

theorem exec_frame_of_fits (fits : l.toNat + 8 ≤ s.params.bufSize) :
    exec (.frame t l) s = .next ((s.writeFrame t l).latchEnc t l) := by
  simp [exec, execFrame, Nat.not_lt.mpr fits]

theorem exec_frame_of_exceeds (exceeds : s.params.bufSize < l.toNat + 8) :
    exec (.frame t l) s = .next (s.raise .frameCapacity) := by
  simp [exec, execFrame, exceeds]

/-- R96: the bound alone decides whether FRAME completes, whatever its type byte and the rest of the state. -/
theorem exec_frame_completes_iff :
    (∃ s', exec (.frame t l) s = .next s' ∧ s'.status.lastFault = false) ↔ l.toNat + 8 ≤ s.params.bufSize := by
  rcases Nat.lt_or_ge s.params.bufSize (l.toNat + 8) with exceeds | fits
  · simp [exec_frame_of_exceeds exceeds, exceeds]
  · simp [exec_frame_of_fits fits, fits]

end

/-- The longest payload, 65535 bytes, is the one that decides (R12: 65535 + 8 = 65543). -/
theorem forall_len_add_eight_le_iff {n : Nat} : (∀ l : Len, l.toNat + 8 ≤ n) ↔ 65543 ≤ n := by
  constructor
  · intro h
    exact h (BitVec.allOnes 16)
  · intro h l
    have := l.isLt
    omega

/-- Settles O23: FRAME completes exactly when the frame fits, and every frame fits exactly when the longest does. -/
theorem fullRangeNeedsCapacity : Obligations.FullRangeNeedsCapacity := by
  intro s
  simp only [exec_frame_completes_iff, forall_const, forall_len_add_eight_le_iff]

end Sys2Proof.Machine
end

section
/-! SUPPORT. FRAME's three writes are one write of the whole frame at offset 0 (spec/40_encoder.md R97 to R100). -/

namespace Sys2Proof.Machine

theorem Memory.cells_append (a : Nat) (bs cs : List Byte) :
    Memory.cells a (bs ++ cs) = Memory.cells a bs ++ Memory.cells (a + bs.length) cs := by
  induction bs generalizing a with
  | nil => rfl
  | cons b bs ih => simp [Memory.cells, ih, Nat.add_assoc, Nat.add_comm 1]

theorem Memory.filter_write_below (m : Memory) (a : Nat) (bs : List Byte) :
    (m.write a bs).filter (fun c => decide (c.1 < a + bs.length))
      = m.filter (fun c => decide (c.1 < a)) ++ Memory.cells a bs := by
  have hlow : ∀ c : Host.Cell, (c.1 < a + bs.length ∧ c.1 < a) ↔ c.1 < a := by omega
  have hcells : (Memory.cells a bs).filter (fun c => decide (c.1 < a + bs.length)) = Memory.cells a bs :=
    List.filter_eq_self.mpr fun c hc => decide_eq_true (Memory.mem_cells hc).2
  have hhigh : ∀ c : Host.Cell, ¬ (c.1 < a + bs.length ∧ a + bs.length ≤ c.1) := by omega
  simp only [Memory.write, List.filter_append, List.filter_filter, ← Bool.decide_and, hlow, hcells, hhigh]
  simp

theorem Memory.filter_write_above (m : Memory) (a : Nat) (bs : List Byte) {e : Nat} (he : a + bs.length ≤ e) :
    (m.write a bs).filter (fun c => decide (e ≤ c.1)) = m.filter (fun c => decide (e ≤ c.1)) := by
  have hlow : ∀ c : Host.Cell, ¬ (e ≤ c.1 ∧ c.1 < a) := by omega
  have hcells : (Memory.cells a bs).filter (fun c => decide (e ≤ c.1)) = [] :=
    List.filter_eq_nil_iff.mpr fun c hc => by
      have := Memory.mem_cells hc
      simp only [decide_eq_true_eq]
      omega
  have hhigh : ∀ c : Host.Cell, (e ≤ c.1 ∧ a + bs.length ≤ c.1) ↔ e ≤ c.1 := by omega
  simp only [Memory.write, List.filter_append, List.filter_filter, ← Bool.decide_and, hlow, hcells, hhigh]
  simp

/-- Writing some bytes and then others right after them is writing both at once. -/
theorem Memory.write_write_append (m : Memory) (a : Nat) (bs cs : List Byte) :
    (m.write a bs).write (a + bs.length) cs = m.write a (bs ++ cs) := by
  rw [Memory.write, Memory.filter_write_below, Memory.filter_write_above m a bs (Nat.le_add_right _ _),
    Memory.write, Memory.cells_append, List.length_append, Nat.add_assoc]
  simp only [List.append_assoc]

theorem State.memWrite_memWrite_append (s : State) (a : Nat) (bs cs : List Byte) :
    (s.memWrite a bs).memWrite (a + bs.length) cs = s.memWrite a (bs ++ cs) := by
  simp only [State.memWrite, Memory.write_write_append]

section
variable {s : State} {t : Byte} {l : Len}

/-- The `total(L)` bytes a FRAME writes, in order: header, payload, padding (R97 to R99). -/
def State.frameBytes (s : State) (t : Byte) (l : Len) : List Byte :=
  (encHeader s.params t l).bytes ++ s.payload l ++ List.replicate (pad l) 0x00

@[simp] theorem State.length_frameBytes : (s.frameBytes t l).length = total l := by
  simp [State.frameBytes, total, Nat.add_assoc]

theorem State.writeFrame_eq : s.writeFrame t l = s.memWrite 0 (s.frameBytes t l) := by
  have hheader := s.memWrite_memWrite_append 0 (encHeader s.params t l).bytes (s.payload l)
  have hframe := s.memWrite_memWrite_append 0 ((encHeader s.params t l).bytes ++ s.payload l)
    (List.replicate (pad l) 0x00)
  simp only [List.length_append, Header.length_bytes, State.length_payload, Nat.zero_add] at hheader hframe
  rw [State.frameBytes, ← hframe, ← hheader, State.writeFrame]

theorem State.byteAt_writeFrame_of_lt {o : Nat} (ho : o < total l) :
    (s.writeFrame t l).byteAt o = (s.frameBytes t l)[o]'(by simpa using ho) := by
  rw [State.writeFrame_eq, State.byteAt_memWrite, dif_pos (by simpa using ho)]
  simp

end

end Sys2Proof.Machine
end

section
/-! SUPPORT. Every update of the state keeps the machine's invariant, and so does every step
(spec/10_state.md R28, R33, R43, spec/60_exceptions.md R125). -/

namespace Sys2Proof.Machine

section
variable {s : State} {t : Byte} {l : Len}

theorem State.BufInv.memWrite (h : s.BufInv) {a : Nat} {bs : List Byte} (hle : a + bs.length ≤ s.params.bufSize) :
    (s.memWrite a bs).BufInv :=
  State.memWrite_bufInv h hle

/-- FRAME writes inside the buffer: the capacity bound covers the whole frame (R96). -/
theorem State.BufInv.writeFrame (h : s.BufInv) (fits : l.toNat + 8 ≤ s.params.bufSize) :
    (s.writeFrame t l).BufInv := by
  have hle : total l ≤ s.params.bufSize := (total_le l).trans fits
  rw [State.writeFrame_eq]
  exact h.memWrite (by simpa using hle)

/-- The header carries the length it was encoded from (R72). -/
@[simp] theorem State.encLen_latchEnc : (s.latchEnc t l).encLen = l := by
  simp only [State.encLen, State.latchEnc_encHdr, encHeader]
  rw [BitVec.extractLsb'_append_extractLsb'_eq_extractLsb' (by rfl), BitVec.extractLsb'_eq_self]

theorem State.encInv_latchEnc : (s.latchEnc t l).EncInv := by
  simp only [State.EncInv, State.latchEnc_status, Status.afterEnc_validEnc, if_true, State.encLen_latchEnc]
  exact ⟨rfl, rfl, rfl⟩

theorem Status.afterFault_sticky (st : Status) (c : Cause) :
    (st.afterFault c).ill = true ∨ (st.afterFault c).ovf = true := by
  cases c
  · exact .inl rfl
  · exact .inr rfl

theorem State.Inv.withHost (h : s.Inv) (rest : List Transaction) : ({ s with host := rest } : State).Inv :=
  ⟨h.buf, h.enc, h.prs, h.fault⟩

theorem State.Inv.reply (h : s.Inv) (r : Reply) : (s.reply r).Inv := ⟨h.buf, h.enc, h.prs, h.fault⟩

theorem State.Inv.memWrite (h : s.Inv) {a : Nat} {bs : List Byte} (hle : a + bs.length ≤ s.params.bufSize) :
    (s.memWrite a bs).Inv :=
  ⟨h.buf.memWrite hle, h.enc, h.prs, h.fault⟩

theorem State.Inv.writeFrame (h : s.Inv) (fits : l.toNat + 8 ≤ s.params.bufSize) : (s.writeFrame t l).Inv :=
  ⟨h.buf.writeFrame fits, h.enc, h.prs, h.fault⟩

theorem State.Inv.latchEnc (h : s.Inv) : (s.latchEnc t l).Inv where
  buf := h.buf
  enc := State.encInv_latchEnc
  prs := h.prs
  fault := nofun

theorem State.Inv.latchPrs (h : s.Inv) (hdr : Header) : (s.latchPrs hdr).Inv where
  buf := h.buf
  enc := h.enc
  prs := nofun
  fault := nofun

theorem State.Inv.raise (h : s.Inv) (c : Cause) : (s.raise c).Inv where
  buf := h.buf
  enc := by simpa [State.EncInv, State.encLen] using h.enc
  prs := by simpa [State.PrsInv] using h.prs
  fault _ := s.status.afterFault_sticky c

end

theorem State.inv_powerOn (p : Config.Params) : (State.powerOn p).Inv where
  buf := ⟨Memory.empty_wf, nofun⟩
  enc := by simp [State.EncInv]
  prs _ := ⟨rfl, rfl, rfl⟩
  fault := nofun

/-- A reset leaves nothing of the state that the invariant speaks of but the parameters. -/
theorem State.inv_clear (s : State) : s.clear.Inv :=
  have h := State.inv_powerOn s.params
  ⟨h.buf, h.enc, h.prs, h.fault⟩

theorem effect_keeps_inv {s s' : State} {tx : Transaction} (h : s.Inv) (he : Effect s tx s') : s'.Inv := by
  cases he with
  | regRead r => exact h.reply _
  | ignored => exact h
  | illegal => exact h.raise _
  | encoded => exact h.latchEnc
  | framed v t l hd fits => exact (h.writeFrame fits).latchEnc
  | overflowed => exact h.raise _
  | parsed => exact h.latchPrs _
  | bufRead => exact h.reply _
  | bufWrite o b ho => exact h.memWrite ho
  | reset => exact s.inv_clear

/-- Settles O43: every effect of a transaction keeps the invariant. -/
theorem stepKeepsInvariant : Obligations.StepKeepsInvariant := by
  intro s s' hs h
  exact step_keeps (fun _ rest h => h.withHost rest) (fun _ _ _ h he => effect_keeps_inv h he) hs h

/-- Settles O44: with every register field 0 and no byte written, each part holds. -/
theorem powerOnHasInvariant : Obligations.PowerOnHasInvariant :=
  ⟨State.inv_powerOn, State.inv_powerOn _⟩

end Sys2Proof.Machine
end

section
/-! SUPPORT. What the host's next transaction is, read off the head of its list, and the fault bits of STATUS as the
host reads them: what each step does to STATUS and to the result registers (spec/10_state.md R28 to R33, R44). -/

namespace Sys2Proof.Machine

section
variable {s : State}

@[simp] theorem State.nextIsReset_iff : s.nextIsReset ↔ s.host.head? = some .reset := by
  simp [State.nextIsReset, List.head?_eq_some_iff]

@[simp] theorem State.nextIsCommand_iff :
    s.nextIsCommand ↔ ∃ w, s.host.head? = some (.regWrite Reg.cmd w) := by
  simp [State.nextIsCommand, List.head?_eq_some_iff]

@[simp] theorem State.nextIsIllegal_iff :
    s.nextIsIllegal ↔ ∃ w, s.host.head? = some (.regWrite Reg.cmd w) ∧ ∃ why, decode w = .illegal why := by
  simp [State.nextIsIllegal, List.head?_eq_some_iff]

@[simp] theorem State.nextOverflows_iff :
    s.nextOverflows ↔ ∃ w, s.host.head? = some (.regWrite Reg.cmd w)
      ∧ ∃ t l, decode w = .instr (.frame t l) ∧ s.params.bufSize < l.toNat + 8 := by
  simp [State.nextOverflows, List.head?_eq_some_iff]

@[simp] theorem State.nextEncodes_iff :
    s.nextEncodes ↔ ∃ w, s.host.head? = some (.regWrite Reg.cmd w)
      ∧ ∃ t l, decode w = .instr (.encode t l)
        ∨ decode w = .instr (.frame t l) ∧ l.toNat + 8 ≤ s.params.bufSize := by
  simp [State.nextEncodes, List.head?_eq_some_iff]

@[simp] theorem State.nextParses_iff :
    s.nextParses ↔ ∃ w, s.host.head? = some (.regWrite Reg.cmd w) ∧ decode w = .instr .parse := by
  simp [State.nextParses, List.head?_eq_some_iff]

end

section
variable (st : Status)

theorem Status.getLsbD_toWord_ill : st.toWord.getLsbD 3 = st.ill := by
  simp only [Status.toWord, BitVec.getLsbD_setWidth, BitVec.getLsbD_append]
  simp

theorem Status.getLsbD_toWord_ovf : st.toWord.getLsbD 4 = st.ovf := by
  simp only [Status.toWord, BitVec.getLsbD_setWidth, BitVec.getLsbD_append]
  simp

theorem Status.getLsbD_toWord_lastFault : st.toWord.getLsbD 5 = st.lastFault := by
  simp only [Status.toWord, BitVec.getLsbD_setWidth, BitVec.getLsbD_append]
  simp

end

/-- Settles O37: a fault sets its own bit, a Reset clears both, and every other effect keeps them. -/
theorem faultBitsSticky : Obligations.FaultBitsSticky := by
  intro s s' h
  simp only [State.readReg_status, Status.getLsbD_toWord_ill, Status.getLsbD_toWord_ovf]
  rcases step_cases h with ⟨hh, rfl⟩ | ⟨tx, rest, hh, he⟩
  · simp [hh]
  · cases he with
    | regRead | bufRead | bufWrite | reset => simp [hh]
    | ignored _ _ hr => simp [hh, hr]
    | illegal _ _ hd | encoded _ _ _ hd | parsed _ hd => simp [hh, hd]
    | framed _ _ _ hd fits => simp [hh, hd, fits.not_gt]
    | overflowed _ _ _ hd exceeds => simp [hh, hd, exceeds]

/-- Settles O38: LAST_FAULT is 1 after the two effects that raise a fault, 0 after every other command and a
Reset, and kept by the rest. -/
theorem lastFaultOfLastCommand : Obligations.LastFaultOfLastCommand := by
  intro s s' h
  simp only [State.readReg_status, Status.getLsbD_toWord_lastFault]
  rcases step_cases h with ⟨hh, rfl⟩ | ⟨tx, rest, hh, he⟩
  · simp [hh]
  · cases he with
    | regRead | bufRead | bufWrite | reset => simp [hh]
    | ignored _ _ hr => simp [hh, hr]
    | illegal _ _ hd | encoded _ _ _ hd | parsed _ hd => simp [hh, hd]
    | framed _ _ _ hd fits => simp [hh, hd, fits.not_gt]
    | overflowed _ _ _ hd exceeds => simp [hh, hd, exceeds]

/-- Settles O39: only a latch of a command's outputs and a Reset write the result registers and their VALID bits. -/
theorem resultsWrittenByCompletion : Obligations.ResultsWrittenByCompletion := by
  intro s s' h
  rcases step_cases h with ⟨hh, rfl⟩ | ⟨tx, rest, hh, he⟩
  · simp [hh]
  · cases he with
    | regRead | bufRead | bufWrite | reset => simp [hh]
    | ignored _ _ hr => simp [hh, hr]
    | illegal _ _ hd | encoded _ _ _ hd | parsed _ hd => simp [hh, hd]
    | framed _ _ _ hd fits => simp [hh, hd, fits]
    | overflowed _ _ _ hd exceeds => simp [hh, hd, exceeds.not_ge]

theorem effect_params {s s' : State} {tx : Transaction} (he : Effect s tx s') : s'.params = s.params := by
  cases he <;> rfl

/-- Settles O42: no effect writes the parameters, a Reset's among them. -/
theorem parametersAreFixed : Obligations.ParametersAreFixed := by
  intro s s' h
  exact step_keeps (P := fun u => u.params = s.params) (fun _ _ hu => hu)
    (fun _ _ _ hu he => (effect_params he).trans hu) rfl h

end Sys2Proof.Machine
end

section
/-! SUPPORT. Two states with the same parameters and the same operand bytes give a command the same operands
(spec/10_state.md R42), the bytes a FRAME writes among them. -/

namespace Sys2Proof.Machine

section
variable {s u : State} {t : Byte} {l : Len}

theorem State.payload_congr (hbytes : ∀ o, o < l.toNat → s.byteAt o = u.byteAt o) : s.payload l = u.payload l := by
  apply List.ext_getElem
  · simp
  · intro k hk _
    simpa using hbytes k (by simpa using hk)

theorem State.header_congr (hbytes : ∀ o, o < 5 → s.byteAt o = u.byteAt o) : s.header = u.header := by
  simp [State.header, hbytes]

theorem State.frameBytes_congr (hparams : s.params = u.params)
    (hbytes : ∀ o, o < l.toNat → s.byteAt o = u.byteAt o) : s.frameBytes t l = u.frameBytes t l := by
  simp only [State.frameBytes, hparams, State.payload_congr hbytes]

end

@[simp] theorem State.byteAt_latchEnc (s : State) (t : Byte) (l : Len) (o : Nat) :
    (s.latchEnc t l).byteAt o = s.byteAt o := rfl

/-- Settles O30: a command's outcome is a function of the parameters, its own operands and the bytes it reads. -/
theorem commandsAreStateless : Obligations.CommandsAreStateless := by
  intro i s u hparams hbytes
  cases i with
  | encode t l => exact ⟨_, _, rfl, rfl, by simp [hparams]⟩
  | parse =>
    have hheader : s.header = u.header := State.header_congr hbytes
    exact ⟨_, _, rfl, rfl, by simp [hparams, hheader]⟩
  | frame t l =>
    rcases Nat.lt_or_ge u.params.bufSize (l.toNat + 8) with exceeds | fits
    · exact ⟨_, _, exec_frame_of_exceeds (hparams ▸ exceeds), exec_frame_of_exceeds exceeds, by simp⟩
    · refine ⟨_, _, exec_frame_of_fits (hparams ▸ fits), exec_frame_of_fits fits, by simp, fun _ => ?_⟩
      refine ⟨by simp [hparams], rfl, rfl, fun o ho => ?_⟩
      simp only [State.byteAt_latchEnc, State.byteAt_writeFrame_of_lt ho, State.frameBytes_congr hparams hbytes]

end Sys2Proof.Machine
end

section
/-! SUPPORT. The register map in states the spec speaks of by name: power-on, a reserved number, VALID_ENC
(spec/10_state.md R36, R37, R41, R46). -/

namespace Sys2Proof.Machine

theorem State.readReg_reserved (s : State) {r : RegNum} (hr : 9 ≤ r.val) : s.readReg r = 0 := by
  rw [State.readReg]
  split
  case h_9 => rfl
  all_goals omega

theorem perform_regWrite_of_ne_cmd (s : State) {r : RegNum} (v : Word) (hr : r ≠ Reg.cmd) :
    perform (.regWrite r v) s = .next s := by
  simp [perform, doRegWrite, hr]

/-- Settles O32: only number 0 is CMD, and no number from 9 on is mapped. -/
theorem regWriteIgnored : Obligations.RegWriteIgnored := by
  refine ⟨fun s r v rest hh hr => ?_, fun s r hr => s.readReg_reserved hr⟩
  have hne : r ≠ Reg.cmd := by
    rintro rfl
    exact absurd hr (by decide)
  rw [step_of_host hh, perform_regWrite_of_ne_cmd _ v hne]

theorem State.readReg_powerOn (p : Config.Params) (r : RegNum) :
    (State.powerOn p).readReg r = if r = Reg.prsViewOff then 5 else 0 := by
  have hst : Status.zero.toWord = 0 := by decide
  have hhdr : Header.zero.regA = 0 := by decide
  simp only [State.readReg, State.powerOn_status, State.powerOn_encHdr, hst, hhdr]
  fin_cases r <;> rfl

/-- Settles O36: at power-on every register field is 0, and PRS_VIEW_OFF is hardwired. -/
theorem powerOnRegisters : Obligations.PowerOnRegisters :=
  ⟨fun p => ⟨rfl, State.readReg_powerOn p⟩, rfl⟩

theorem total_mod_four (l : Len) : total l % 4 = 0 := by
  simp only [total, pad]
  omega

theorem State.encLen_toNat (s : State) : s.encLen.toNat = 256 * s.encHdr.h3.toNat + s.encHdr.h4.toNat := by
  rw [State.encLen, BitVec.toNat_append, ← Nat.shiftLeft_add_eq_or_of_lt s.encHdr.h4.isLt, Nat.shiftLeft_eq]
  omega

section
variable {s : State} (h : s.Inv) (hvalid : s.status.validEnc = true)
include h hvalid

theorem State.Inv.encPad_toNat : (s.readReg Reg.encPad).toNat = pad s.encLen := by
  have henc := h.enc
  rw [State.EncInv, if_pos hvalid] at henc
  obtain ⟨-, hpad, -⟩ := henc
  have := pad_le s.encLen
  simp only [State.readReg_encPad, hpad, BitVec.toNat_setWidth, BitVec.toNat_ofNat]
  omega

theorem State.Inv.encTotal_toNat : (s.readReg Reg.encTotal).toNat = total s.encLen := by
  have henc := h.enc
  rw [State.EncInv, if_pos hvalid] at henc
  obtain ⟨-, -, htotal⟩ := henc
  have := total_lt s.encLen
  simp only [State.readReg_encTotal, htotal, BitVec.toNat_setWidth, BitVec.toNat_ofNat]
  omega

end

/-- Settles O45: with VALID_ENC the two registers are `total` and `pad` of the header's own length. -/
theorem encTotalIsLegal : Obligations.EncTotalIsLegal := by
  intro s h hvalid
  rw [h.encTotal_toNat hvalid, h.encPad_toNat hvalid, ← s.encLen_toNat]
  have hle := total_le s.encLen
  have hlen := s.encLen.isLt
  have hmod := total_mod_four s.encLen
  have heq := total_eq s.encLen
  omega

end Sys2Proof.Machine
end

section
/-! SUPPORT. What each transaction answers, in every state: a next state or the stuck buffer access, and what a
next state keeps of the host's side (spec/20_memory.md R62, R63; spec/42_host_port.md R111 to R118). -/

namespace Sys2Proof.Machine

section
variable {s s' : State} {o : Nat}

theorem perform_bufRead_of_lt (ho : o < s.params.bufSize) :
    perform (.bufRead o) s = .next (s.reply (.byte (s.byteAt o))) := by
  simp [perform, doBufRead, ho]

theorem perform_bufRead_of_ge (ho : s.params.bufSize ≤ o) : perform (.bufRead o) s = .fault (.stuckBufRead o) := by
  simp [perform, doBufRead, Nat.not_lt.mpr ho]

theorem perform_bufWrite_of_lt (b : Byte) (ho : o < s.params.bufSize) :
    perform (.bufWrite o b) s = .next (s.memWrite o [b]) := by
  simp [perform, doBufWrite, ho]

theorem perform_bufWrite_of_ge (b : Byte) (ho : s.params.bufSize ≤ o) :
    perform (.bufWrite o b) s = .fault (.stuckBufWrite o) := by
  simp [perform, doBufWrite, Nat.not_lt.mpr ho]

theorem effect_host {tx : Transaction} (he : Effect s tx s') : s'.host = s.host := by
  cases he <;> rfl

end

/-- A command's own faults are next states (R121), so nothing stops a command. -/
theorem exec_completes (i : Instr) (s : State) : ∃ s', exec i s = .next s' := by
  cases i <;> exact ⟨_, rfl⟩

/-- R114, R124: a write of CMD has a step whatever its word. -/
theorem execute_completes (d : Decoded) (s : State) : ∃ s', execute d s = .next s' := by
  cases d with
  | instr i => exact exec_completes i s
  | illegal why => exact ⟨_, rfl⟩

/-- A transaction has a step where the block accepts it, and is stuck where it does not (R115, R116, R118). -/
theorem perform_next_or_fault (tx : Transaction) (s : State) :
    (tx.wellFormed s.params = true ∧ ∃ s', perform tx s = .next s')
      ∨ (tx.wellFormed s.params = false ∧ ∃ f, perform tx s = .fault f) := by
  cases tx with
  | regRead | reset => exact .inl ⟨rfl, _, rfl⟩
  | regWrite r v =>
    refine .inl ⟨rfl, ?_⟩
    by_cases hr : r = Reg.cmd
    · simpa [perform, doRegWrite, hr] using execute_completes (decode v) s
    · exact ⟨_, perform_regWrite_of_ne_cmd s v hr⟩
  | bufRead o =>
    rcases Nat.lt_or_ge o s.params.bufSize with ho | ho
    · exact .inl ⟨decide_eq_true ho, _, perform_bufRead_of_lt ho⟩
    · exact .inr ⟨decide_eq_false ho.not_gt, _, perform_bufRead_of_ge ho⟩
  | bufWrite o b =>
    rcases Nat.lt_or_ge o s.params.bufSize with ho | ho
    · exact .inl ⟨decide_eq_true ho, _, perform_bufWrite_of_lt b ho⟩
    · exact .inr ⟨decide_eq_false ho.not_gt, _, perform_bufWrite_of_ge b ho⟩

/-- The transactions the block does not accept (R62). -/
theorem Transaction.wellFormed_eq_false_iff {p : Config.Params} {tx : Transaction} :
    tx.wellFormed p = false ↔ ∃ o, p.bufSize ≤ o ∧ (tx = .bufRead o ∨ ∃ b, tx = .bufWrite o b) := by
  cases tx <;> simp [Transaction.wellFormed]

theorem perform_fault_iff {tx : Transaction} {s : State} :
    (∃ f, perform tx s = .fault f) ↔ tx.wellFormed s.params = false := by
  rcases perform_next_or_fault tx s with ⟨hwf, s', hs'⟩ | ⟨hwf, f, hf⟩
  · simp [hwf, hs']
  · simp [hwf, hf]

theorem perform_ne_refused (tx : Transaction) (s : State) (r : Refusal) : perform tx s ≠ .refused r := by
  rcases perform_next_or_fault tx s with ⟨-, s', hs'⟩ | ⟨-, f, hf⟩
  · simp [hs']
  · simp [hf]

theorem step_of_host_nil {s : State} (h : s.host = []) : step s = .next s := by
  simp [step, hostStep, h]

/-- Settles O10: no effect touches the host's list, and of the effects only the two reads add a reply. -/
theorem oneTransactionPerStep : Obligations.OneTransactionPerStep := by
  intro s s' tx rest hh h
  rw [step_of_host hh] at h
  have he : Effect { s with host := rest } tx s' := effect_of_perform h
  refine ⟨effect_host he, ?_⟩
  cases he <;> rfl

/-- Settles O12: a step is that of the next transaction, which faults where the block does not accept it; a step
with none left has a next state. -/
theorem onlyOutOfRangeAccessIsStuck : Obligations.OnlyOutOfRangeAccessIsStuck := by
  intro s
  cases hh : s.host with
  | nil => simp [step_of_host_nil hh]
  | cons tx rest =>
    rw [step_of_host hh]
    refine ⟨?_, perform_ne_refused tx _⟩
    simp [perform_fault_iff, Transaction.wellFormed_eq_false_iff, exists_or]

/-- R108: the view is two registers, so a write of the buffer leaves it as it is. -/
@[simp] theorem State.view_memWrite (s : State) (a : Nat) (bs : List Byte) : (s.memWrite a bs).view = s.view := rfl

@[simp] theorem State.byteAt_memWrite_same (s : State) (o : Nat) (b : Byte) : (s.memWrite o [b]).byteAt o = b := by
  simp [State.byteAt_memWrite]

/-- R63: a read right after a write of the same offset returns the byte written. -/
theorem perform_bufRead_memWrite_same {s : State} {o : Nat} (b : Byte) (ho : o < s.params.bufSize) :
    perform (.bufRead o) (s.memWrite o [b]) = .next ((s.memWrite o [b]).reply (.byte b)) := by
  rw [perform_bufRead_of_lt (s := s.memWrite o [b]) ho, State.byteAt_memWrite_same]

/-- Settles O27: PARSE writes no byte, a BufWrite writes no view, and each read is of the byte then held. -/
theorem viewAliasesBuffer : Obligations.ViewAliasesBuffer := by
  intro s k b hk
  exact ⟨s.latchPrs s.header, (s.latchPrs s.header).memWrite (5 + k) [b], rfl, perform_bufRead_of_lt hk,
    perform_bufWrite_of_lt b hk, State.view_memWrite _ _ _, perform_bufRead_memWrite_same b hk⟩

end Sys2Proof.Machine
end

section
/-! SUPPORT. Decoder and encoder agree (spec/30_encoding.md R79 to R82): a word is built from its fields, a word decodes
to a command exactly when it is that command's word, and what is left is Illegal. -/

namespace Sys2Proof

theorem toNat_append_eq_add {m n : Nat} (x : BitVec m) (y : BitVec n) :
    (x ++ y).toNat = x.toNat * 2 ^ n + y.toNat := by
  rw [BitVec.toNat_append, ← Nat.shiftLeft_add_eq_or_of_lt y.isLt, Nat.shiftLeft_eq]

theorem toNat_commandWord (op : BitVec 4) (t : Byte) (l : Len) :
    (commandWord op t l).toNat = l.toNat * 65536 + t.toNat * 256 + op.toNat := by
  simp only [commandWord, toNat_append_eq_add, BitVec.toNat_ofNat]
  omega

section
variable {w : Word} {op : BitVec 4} {t : Byte} {l : Len} {i : Instr}

/-- R76: the four fields determine the word. -/
theorem commandWord_eq_iff :
    commandWord op t l = w ↔ rsvOf w = 0 ∧ opOf w = op ∧ typeOf w = t ∧ lenOf w = l := by
  constructor
  · rintro rfl
    simp
  · rintro ⟨hrsv, rfl, rfl, rfl⟩
    exact commandWord_of_fields hrsv

theorem operandBits_eq_zero_iff : operandBits w = 0 ↔ typeOf w = 0 ∧ lenOf w = 0 := by
  simp only [operandBits, typeOf, lenOf, ← BitVec.toNat_inj, BitVec.extractLsb'_toNat, Nat.shiftRight_eq_div_pow,
    BitVec.ofNat_eq_ofNat, BitVec.toNat_ofNat]
  omega

theorem encode_parse_eq_iff : encode .parse = w ↔ rsvOf w = 0 ∧ opOf w = 3 ∧ operandBits w = 0 := by
  rw [operandBits_eq_zero_iff]
  exact commandWord_eq_iff

theorem decode_encode (i : Instr) : decode (encode i) = .instr i := by
  cases i with
  | encode t l | frame t l => simp [encode, decode, opcode]
  | parse => decide

theorem encode_of_decode (h : decode w = .instr i) : encode i = w := by
  unfold decode at h
  split_ifs at h with hrsv hop hop hparse
  all_goals cases h
  · exact commandWord_eq_iff.mpr ⟨not_not.mp hrsv, hop, rfl, rfl⟩
  · exact commandWord_eq_iff.mpr ⟨not_not.mp hrsv, hop, rfl, rfl⟩
  · exact encode_parse_eq_iff.mpr ⟨not_not.mp hrsv, hparse⟩

/-- R79, R81: a word decodes to a command exactly when it is that command's word. -/
theorem decode_eq_instr_iff : decode w = .instr i ↔ encode i = w :=
  ⟨encode_of_decode, fun h => h ▸ decode_encode i⟩

/-- R79, R80: a word is Illegal exactly when it has the fixed fields of no command. -/
theorem exists_decode_illegal_iff :
    (∃ why, decode w = .illegal why) ↔
      ¬ (rsvOf w = 0 ∧ opOf w = 1) ∧ ¬ (rsvOf w = 0 ∧ opOf w = 2)
        ∧ ¬ (rsvOf w = 0 ∧ opOf w = 3 ∧ operandBits w = 0) := by
  have hall : (∃ why, decode w = .illegal why) ↔ ∀ i, encode i ≠ w := by
    simp only [ne_eq, ← decode_eq_instr_iff]
    cases decode w <;> simp
  rw [hall, ← encode_parse_eq_iff]
  constructor
  · intro h
    refine ⟨fun ⟨hrsv, hop⟩ => ?_, fun ⟨hrsv, hop⟩ => ?_, h .parse⟩
    · exact h (.encode (typeOf w) (lenOf w)) (commandWord_eq_iff.mpr ⟨hrsv, hop, rfl, rfl⟩)
    · exact h (.frame (typeOf w) (lenOf w)) (commandWord_eq_iff.mpr ⟨hrsv, hop, rfl, rfl⟩)
  · rintro ⟨hencode, hframe, hparse⟩ i hi
    cases i with
    | encode t l =>
      obtain ⟨hrsv, hop, -⟩ := commandWord_eq_iff.mp hi
      exact hencode ⟨hrsv, hop⟩
    | frame t l =>
      obtain ⟨hrsv, hop, -⟩ := commandWord_eq_iff.mp hi
      exact hframe ⟨hrsv, hop⟩
    | parse => exact hparse hi

end

/-- Settles O1: each field of a command's word is the command's own, so the decoder's tests answer as meant. -/
theorem decodeInvertsEncode : Obligations.DecodeInvertsEncode :=
  fun i _ => decode_encode i

/-- Settles O2: a word that passes the decoder's tests has RSV zero, so its fields put together are the word. -/
theorem encodeInvertsDecode : Obligations.EncodeInvertsDecode :=
  fun _ _ h => encode_of_decode h

/-- Settles O3: the concatenation is the encoder's definition, and its number is the sum of its shifted fields. -/
theorem commandWordFormula : Obligations.CommandWordFormula :=
  ⟨fun t l => ⟨toNat_commandWord 1 t l, toNat_commandWord 2 t l, rfl, rfl⟩, by decide⟩

/-- Settles O6: each word is small and closed, so the decoder runs on it. -/
theorem decodeTableWords : Obligations.DecodeTableWords := by
  refine ⟨?_, ?_, ?_, ?_, ?_, ?_⟩ <;> decide

end Sys2Proof
end

section
/-! SUPPORT. The command patterns as match and mask, and the Illegal words by their fields (spec/30_encoding.md R80,
R82); what a write of CMD does with a word (spec/42_host_port.md R114, R124). -/

namespace Sys2Proof

open Machine

section
variable {w : Word} {op : BitVec 4}

/-- The mask 0xFF selects RSV and OP (R76). -/
theorem and_lowMask_eq_iff : w &&& 0x000000FF = op.setWidth 32 ↔ rsvOf w = 0 ∧ opOf w = op := by
  have hop := op.isLt
  have hmask : w.toNat &&& 255 = w.toNat % 256 := Nat.and_two_pow_sub_one_eq_mod _ 8
  simp only [rsvOf, opOf, ← BitVec.toNat_inj, BitVec.toNat_and, BitVec.extractLsb'_toNat, Nat.shiftRight_eq_div_pow,
    BitVec.ofNat_eq_ofNat, BitVec.toNat_ofNat, BitVec.toNat_setWidth, Nat.reducePow, Nat.reduceMod, hmask]
  omega

theorem commandWord_eq_iff_mask {t : Byte} {l : Len} :
    commandWord op t l = w ↔ w &&& 0x000000FF = op.setWidth 32 ∧ l = lenOf w ∧ t = typeOf w := by
  rw [commandWord_eq_iff, and_lowMask_eq_iff, and_assoc, and_comm (a := l = _), eq_comm (a := t), eq_comm (a := l)]

theorem and_fullMask (w : Word) : w &&& 0xFFFFFFFF = w := BitVec.and_allOnes

theorem and_lowMask_of_parse (h : w &&& 0xFFFFFFFF = 0x00000003) : w &&& 0x000000FF = 0x00000003 := by
  rw [and_fullMask] at h
  rw [h]
  decide

theorem encode_parse_eq_iff_mask : encode .parse = w ↔ w &&& 0xFFFFFFFF = 0x00000003 := by
  rw [and_fullMask, eq_comm]
  exact Iff.rfl

end

/-- R82: the OP values of no command. -/
theorem reservedOp_iff : ∀ op : BitVec 4, op = 0 ∨ 4 ≤ op ∧ op ≤ 15 ↔ op ≠ 1 ∧ op ≠ 2 ∧ op ≠ 3 := by decide

/-- Settles O4: the mask 0xFF compares RSV and OP and the full mask the word, and each command's word is fixed by
what its mask leaves and its free fields. -/
theorem commandPatterns : Obligations.CommandPatterns := by
  intro w
  refine ⟨fun t l => ?_, fun t l => ?_, ?_, ?_, ?_, ?_, ?_⟩
  · exact decode_eq_instr_iff.trans commandWord_eq_iff_mask
  · exact decode_eq_instr_iff.trans commandWord_eq_iff_mask
  · exact decode_eq_instr_iff.trans encode_parse_eq_iff_mask
  · rintro ⟨h1, h2⟩
    exact absurd (h1.symm.trans h2) (by decide)
  · rintro ⟨h1, h3⟩
    exact absurd (h1.symm.trans (and_lowMask_of_parse h3)) (by decide)
  · rintro ⟨h2, h3⟩
    exact absurd (h2.symm.trans (and_lowMask_of_parse h3)) (by decide)
  · rw [exists_decode_illegal_iff, ← encode_parse_eq_iff, encode_parse_eq_iff_mask, ← and_lowMask_eq_iff,
      ← and_lowMask_eq_iff]
    exact Iff.rfl

theorem perform_regWrite_cmd (w : Word) (s : State) : perform (.regWrite Reg.cmd w) s = execute (decode w) s := rfl

/-- Settles O5: with RSV zero, OP is a reserved one or a command's, and of the commands PARSE alone has more fixed
bits; an Illegal word written to CMD raises IllegalCommand. -/
theorem illegalWords : Obligations.IllegalWords := by
  intro w
  constructor
  · change _ ↔ rsvOf w ≠ 0 ∨ opOf w = 0 ∨ (4 ≤ opOf w ∧ opOf w ≤ 15) ∨ (opOf w = 3 ∧ operandBits w ≠ 0)
    rw [exists_decode_illegal_iff, ← or_assoc (a := opOf w = 0), reservedOp_iff]
    by_cases hop : opOf w = 3
    · simp [hop, imp_iff_not_or]
    · simp only [hop]
      tauto
  · intro why s hw
    rw [perform_regWrite_cmd, hw]
    rfl

end Sys2Proof
end

section
/-! SUPPORT. The assembler writes the encoder's words (spec/30_encoding.md R84, spec/70_reset_and_hazards.md R147). -/

namespace Sys2Proof

/-- R81: the assembler's number is the word of its fields; a type past its field would run into LEN, where a length past
its own falls off the word (which R147 leaves to the host). -/
theorem ofNat_eq_commandWord {l t : Nat} (op : BitVec 4) (ht : t < 256) :
    BitVec.ofNat 32 (l * 65536 + t * 256 + op.toNat) = commandWord op (BitVec.ofNat 8 t) (BitVec.ofNat 16 l) := by
  have hop := op.isLt
  apply BitVec.eq_of_toNat_eq
  simp only [toNat_commandWord, BitVec.toNat_ofNat]
  omega

theorem assemble_encode {l t : Nat} (h : (Line.encode l t).wellFormed = true) :
    assemble (.encode l t) = [.regWrite Reg.cmd (encode (.encode (BitVec.ofNat 8 t) (BitVec.ofNat 16 l)))] := by
  obtain ⟨-, ht⟩ : l < 65536 ∧ t < 256 := by simpa [Line.wellFormed] using h
  exact congrArg (fun w => [Transaction.regWrite Reg.cmd w]) (ofNat_eq_commandWord 1 ht)

theorem assemble_frame {l t : Nat} (h : (Line.frame l t).wellFormed = true) :
    assemble (.frame l t) = [.regWrite Reg.cmd (encode (.frame (BitVec.ofNat 8 t) (BitVec.ofNat 16 l)))] := by
  obtain ⟨-, ht⟩ : l < 65536 ∧ t < 256 := by simpa [Line.wellFormed] using h
  exact congrArg (fun w => [Transaction.regWrite Reg.cmd w]) (ofNat_eq_commandWord 2 ht)

/-- Settles O7: each command line writes the encoder's word of its command, which decodes back; CMD writes its number,
which fits a word. -/
theorem linesAssembleToCommands : Obligations.LinesAssembleToCommands := by
  refine ⟨fun l t h => ?_, fun l t h => ?_, ?_, fun w h => ?_⟩
  · exact ⟨_, assemble_encode h, decode_encode _⟩
  · exact ⟨_, assemble_frame h, decode_encode _⟩
  · exact ⟨_, rfl, decode_encode .parse⟩
  · have hw : w < 4294967296 := by simpa [Line.wellFormed] using h
    exact ⟨_, rfl, (BitVec.toNat_ofNat w 32).trans (Nat.mod_eq_of_lt hw)⟩

end Sys2Proof
end

section
/-! SUPPORT. The length in the header is big-endian (spec/30_encoding.md R72). -/

namespace Sys2Proof.Machine

theorem decLen_toNat (h : Header) : (decLen h).toNat = 256 * h.h3.toNat + h.h4.toNat := by
  have h3 := h.h3.isLt
  have h4 := h.h4.isLt
  rw [decLen, BitVec.toNat_ofNat]
  omega

theorem decLen_eq_append (h : Header) : decLen h = h.h3 ++ h.h4 := by
  apply BitVec.eq_of_toNat_eq
  rw [decLen_toNat, toNat_append_eq_add]
  omega

theorem encHeader_lenBytes_toNat (p : Config.Params) (t : Byte) (l : Len) :
    l.toNat = 256 * (encHeader p t l).h3.toNat + (encHeader p t l).h4.toNat := by
  have hl := l.isLt
  simp only [encHeader, BitVec.extractLsb'_toNat, Nat.shiftRight_eq_div_pow]
  omega

/-- Settles O16: the encoder splits the length into its two bytes, and the decoder's number is their concatenation. -/
theorem lengthIsBigEndian : Obligations.LengthIsBigEndian :=
  ⟨fun p t l => ⟨rfl, rfl, encHeader_lenBytes_toNat p t l⟩, fun h => ⟨decLen_eq_append h, decLen_toNat h⟩⟩

end Sys2Proof.Machine
end

section
/-! SUPPORT. Padding and total size by the two low bits of the length (spec/40_encoder.md R87, R89, R92), and the
header's round trip (spec/40_encoder.md R90, spec/41_parser.md R103, R104). -/

namespace Sys2Proof.Machine

section
variable (l : Len)

theorem pad_eq : pad l = 3 - l.toNat % 4 := by
  simp only [pad]
  omega

theorem toNat_lowBits : (l.extractLsb' 0 2).toNat = l.toNat % 4 := rfl

theorem toNat_lenFloor : (l.extractLsb' 2 14 ++ 0b00#2).toNat = 4 * (l.toNat / 4) := by
  have := l.isLt
  simp only [toNat_append_eq_add, BitVec.extractLsb'_toNat, Nat.shiftRight_eq_div_pow, BitVec.toNat_ofNat]
  omega

theorem total_eq_floor : total l = 4 * (l.toNat / 4) + 8 := by
  rw [total_eq, pad_eq]
  omega

theorem total_eq_lenFloor : total l = (l.extractLsb' 2 14 ++ 0b00#2).toNat + 8 := by
  rw [total_eq_floor, toNat_lenFloor]

theorem toNat_ofNat_total : (BitVec.ofNat 17 (total l)).toNat = total l :=
  (BitVec.toNat_ofNat _ 17).trans (Nat.mod_eq_of_lt (total_lt l))

end

/-- Settles O13: every form is a function of `L mod 4`, the number of the two low bits. -/
theorem padForms : Obligations.PadForms := by
  intro l
  have hpad := pad_eq l
  refine ⟨hpad, ?_, by omega, by omega, by omega, by omega, fun l' hlow => ?_⟩
  · apply BitVec.eq_of_toNat_eq
    rw [BitVec.toNat_not, toNat_lowBits, BitVec.toNat_ofNat]
    omega
  · rw [hpad, pad_eq, ← toNat_lowBits, hlow, toNat_lowBits]

/-- Settles O14: `L[15:2]` over two zero bits is `4 * floor(L / 4)`, and 17 bits hold the largest sum. -/
theorem totalForms : Obligations.TotalForms := by
  refine ⟨fun l => ?_, by decide⟩
  have hfloor := total_eq_floor l
  have hlen := l.isLt
  refine ⟨hfloor, ?_, toNat_ofNat_total l, total_mod_four l, by omega, by omega⟩
  rw [total_eq_lenFloor, BitVec.ofNat_add, BitVec.ofNat_toNat]

/-- Settles O15: `pad(L)` reaches the next multiple of 4, less than 4 bytes on. -/
theorem padIsLeast : Obligations.PadIsLeast := by
  intro l
  refine ⟨total_mod_four l, pad_le l, fun n hn => ?_⟩
  rw [pad_eq]
  omega

/-- Settles O17: the two length bytes weigh up to the length, and type and magic bytes are read where they are put. -/
theorem headerDecodesBack : Obligations.HeaderDecodesBack := by
  intro p t l
  refine ⟨?_, rfl, by simp [magicOk, encHeader]⟩
  apply BitVec.eq_of_toNat_eq
  rw [decLen_toNat, ← encHeader_lenBytes_toNat]

end Sys2Proof.Machine
end

section
/-! SUPPORT. The outputs of a completed ENCODE or FRAME as the host reads them, and each byte of the buffer after a
FRAME (spec/40_encoder.md R93, R94, R97 to R100). -/

namespace Sys2Proof.Machine

section
variable (s : State) (t : Byte) (l : Len)

@[simp] theorem State.readReg_encHdrA_latchEnc :
    (s.latchEnc t l).readReg Reg.encHdrA = s.params.magic0 ++ s.params.magic1 ++ t ++ l.extractLsb' 8 8 := rfl

@[simp] theorem State.readReg_encHdrB_latchEnc :
    (s.latchEnc t l).readReg Reg.encHdrB = (l.extractLsb' 0 8).setWidth 32 := rfl

/-- R91: no bit of `pad(L)` is lost in the register. -/
@[simp] theorem State.readReg_encPad_latchEnc :
    (s.latchEnc t l).readReg Reg.encPad = BitVec.ofNat 32 (pad l) := by
  have := pad_le l
  rw [State.readReg_encPad, State.latchEnc_encPad]
  exact BitVec.setWidth_ofNat_of_le_of_lt (by decide) (by omega)

/-- R91: no bit of `total(L)` is lost in the register. -/
@[simp] theorem State.readReg_encTotal_latchEnc :
    (s.latchEnc t l).readReg Reg.encTotal = BitVec.ofNat 32 (total l) := by
  rw [State.readReg_encTotal, State.latchEnc_encTotal]
  exact BitVec.setWidth_ofNat_of_le_of_lt (by decide) (total_lt l)

theorem exec_encode : exec (.encode t l) s = .next (s.latchEnc t l) := rfl

end

section
variable {s : State} {t : Byte} {l : Len}

/-- R97: the header is at the start of the buffer, in wire order. -/
theorem State.byteAt_writeFrame_header (i : Nat) (hi : i < 5) :
    (s.writeFrame t l).byteAt i = (encHeader s.params t l).bytes[i] := by
  have ho : i < total l := by
    rw [total_eq]
    omega
  rw [State.byteAt_writeFrame_of_lt ho]
  simp only [State.frameBytes, List.append_assoc]
  exact List.getElem_append_left hi

/-- R98: what is copied is the buffer before the command, although the frame overlaps it. -/
theorem State.byteAt_writeFrame_payload {k : Nat} (hk : k < l.toNat) :
    (s.writeFrame t l).byteAt (5 + k) = s.byteAt k := by
  have ho : 5 + k < total l := by
    rw [total_eq]
    omega
  rw [State.byteAt_writeFrame_of_lt ho]
  simp [State.frameBytes, hk, List.getElem_append]

theorem State.byteAt_writeFrame_padding {j : Nat} (hj : j < pad l) :
    (s.writeFrame t l).byteAt (5 + l.toNat + j) = 0x00 := by
  have ho : 5 + l.toNat + j < total l := by
    rw [total_eq]
    omega
  have hheader : ¬ 5 + l.toNat + j < 5 := by omega
  have hpayload : ¬ 5 + l.toNat + j - 5 < l.toNat := by omega
  rw [State.byteAt_writeFrame_of_lt ho]
  simp [State.frameBytes, List.getElem_append, hheader, hpayload]

theorem State.byteAt_writeFrame_of_ge {o : Nat} (ho : total l ≤ o) :
    (s.writeFrame t l).byteAt o = s.byteAt o := by
  rw [State.writeFrame_eq, State.byteAt_memWrite, dif_neg (by simpa using ho)]

end

/-- R80, R93: the words that select ENCODE. -/
theorem decode_eq_encode_of_fields {w : Word} (hop : opOf w = 1) (hrsv : rsvOf w = 0) :
    decode w = .instr (.encode (typeOf w) (lenOf w)) :=
  decode_eq_instr_iff.mpr (commandWord_eq_iff.mpr ⟨hrsv, hop, rfl, rfl⟩)

theorem perform_cmd_of_decode {w : Word} {i : Instr} (h : decode w = .instr i) (s : State) :
    perform (.regWrite Reg.cmd w) s = exec i s := by
  rw [perform_regWrite_cmd, h, execute]

/-- Settles O19: ENCODE latches its outputs and does nothing else, and a word with OP 1 and RSV 0 decodes to it. -/
theorem encodeResult : Obligations.EncodeResult := by
  refine ⟨fun s t l => ⟨s.latchEnc t l, exec_encode s t l, ?_⟩, fun s w hop hrsv => ?_, fun s h0 h1 => ?_⟩
  · exact ⟨s.readReg_encHdrA_latchEnc t l, s.readReg_encHdrB_latchEnc t l, s.readReg_encPad_latchEnc t l,
      s.readReg_encTotal_latchEnc t l, rfl, rfl, rfl, rfl, rfl, s.byteAt_latchEnc t l, rfl, rfl, rfl⟩
  · exact perform_cmd_of_decode (decode_eq_encode_of_fields hop hrsv) s
  · have hword : decode 0x00020101 = .instr (.encode 1 2) := by decide
    refine ⟨s.latchEnc 1 2, perform_cmd_of_decode hword s, ?_, ?_, ?_, ?_⟩
    · rw [State.readReg_encHdrA_latchEnc, h0, h1]
      decide
    · rw [State.readReg_encHdrB_latchEnc]
      decide
    · rw [State.readReg_encPad_latchEnc]
      decide
    · rw [State.readReg_encTotal_latchEnc]
      decide

/-- Settles O20: the frame's bytes are written in one go over the old buffer, and then ENCODE's outputs latched. -/
theorem frameResult : Obligations.FrameResult := by
  intro s t l fits
  refine ⟨(s.writeFrame t l).latchEnc t l, exec_frame_of_fits fits, ?_⟩
  simp only [State.byteAt_latchEnc]
  refine ⟨State.byteAt_writeFrame_header 0 (by decide), State.byteAt_writeFrame_header 1 (by decide),
    State.byteAt_writeFrame_header 2 (by decide), State.byteAt_writeFrame_header 3 (by decide),
    State.byteAt_writeFrame_header 4 (by decide), fun k hk => State.byteAt_writeFrame_payload hk,
    fun j hj => State.byteAt_writeFrame_padding hj, fun o ho => State.byteAt_writeFrame_of_ge ho, ?_⟩
  exact ⟨State.readReg_encHdrA_latchEnc _ t l, State.readReg_encHdrB_latchEnc _ t l,
    State.readReg_encPad_latchEnc _ t l, State.readReg_encTotal_latchEnc _ t l, rfl, rfl, rfl, rfl, rfl, rfl, rfl⟩

/-- Settles O21: past the bound FRAME only raises FrameCapacity, and up to it completes. -/
theorem frameCapacityFault : Obligations.FrameCapacityFault := by
  refine ⟨fun s t l exceeds => exec_frame_of_exceeds exceeds, fun s s' t l h => ?_⟩
  rcases Nat.lt_or_ge s.params.bufSize (l.toNat + 8) with exceeds | fits
  · cases (exec_frame_of_exceeds exceeds).symm.trans h
    simp [exceeds]
  · cases (exec_frame_of_fits fits).symm.trans h
    simp [fits]

/-- Settles O22: both latch the outputs of the same operands and parameters, which FRAME's writes leave alone. -/
theorem encodeMatchesFrame : Obligations.EncodeMatchesFrame := by
  intro s t l fits
  exact ⟨_, _, exec_encode s t l, exec_frame_of_fits fits, by simp⟩

end Sys2Proof.Machine
end

section
/-! SUPPORT. The outputs of a PARSE as the host reads them, what it leaves of the buffer, and the header it finds after
a FRAME (spec/41_parser.md R103 to R110). -/

namespace Sys2Proof.Machine

/-- R104: the check passes on a match of both magic bytes. -/
theorem magicOk_iff {p : Config.Params} {h : Header} : magicOk p h = true ↔ h.h0 = p.magic0 ∧ h.h1 = p.magic1 := by
  simp [magicOk]

theorem decLen_congr {h h' : Header} (h3 : h.h3 = h'.h3) (h4 : h.h4 = h'.h4) : decLen h = decLen h' := by
  rw [decLen, decLen, h3, h4]

theorem magicOk_congr {p : Config.Params} {h h' : Header} (h0 : h.h0 = h'.h0) (h1 : h.h1 = h'.h1) :
    magicOk p h = magicOk p h' := by
  rw [magicOk, magicOk, h0, h1]

/-- Settles O18: the check compares bytes 0 and 1 with the parameters, and each function reads its own bytes alone. -/
theorem magicCheckIndependent : Obligations.MagicCheckIndependent :=
  fun _ _ _ => ⟨magicOk_iff, id, decLen_congr, magicOk_congr⟩

theorem exec_parse (s : State) : exec .parse s = .next (s.latchPrs s.header) := rfl

section
variable (s : State) (h : Header)

@[simp] theorem State.byteAt_latchPrs (o : Nat) : (s.latchPrs h).byteAt o = s.byteAt o := rfl

/-- R106: PARSE writes no buffer byte, so the header it has read is still there. -/
@[simp] theorem State.header_latchPrs : (s.latchPrs h).header = s.header := rfl

/-- R103: the decoded length is below `2 ^ 16`, so no bit of it is lost in the register. -/
@[simp] theorem State.readReg_prsLen_latchPrs :
    (s.latchPrs h).readReg Reg.prsLen = BitVec.ofNat 32 (256 * h.h3.toNat + h.h4.toNat) := by
  have h3 := h.h3.isLt
  have h4 := h.h4.isLt
  rw [State.readReg_prsLen, State.latchPrs_prsLen]
  exact BitVec.setWidth_ofNat_of_le_of_lt (by decide) (by omega)

@[simp] theorem State.readReg_prsType_latchPrs : (s.latchPrs h).readReg Reg.prsType = h.h2.setWidth 32 := rfl

/-- R108: the view's length is the decoded length, which nothing bounds by the buffer's size. -/
@[simp] theorem State.view_latchPrs : (s.latchPrs h).view = ⟨5, 256 * h.h3.toNat + h.h4.toNat⟩ := by
  have hlen : ((s.latchPrs h).readReg Reg.prsLen).toNat = (decLen h).toNat := by
    rw [State.readReg_prsLen, State.latchPrs_prsLen, BitVec.toNat_setWidth_of_le (by decide)]
  rw [State.view, hlen, decLen_toNat, State.readReg_prsViewOff]
  rfl

theorem State.latchPrs_latchPrs_same : (s.latchPrs h).latchPrs h = s.latchPrs h := rfl

end

/-- R97, R106: what a PARSE reads after a FRAME is the header the FRAME has encoded. -/
theorem State.header_writeFrame (s : State) (t : Byte) (l : Len) :
    (s.writeFrame t l).header = encHeader s.params t l := by
  simp [State.header, State.byteAt_writeFrame_header, Header.bytes]

@[simp] theorem State.header_latchEnc (s : State) (t : Byte) (l : Len) : (s.latchEnc t l).header = s.header := rfl

/-- Settles O29: PARSE finds FRAME's header, which decodes back, and FRAME has put the payload behind it. -/
theorem frameThenParse : Obligations.FrameThenParse := by
  intro s t l fits
  obtain ⟨hlen, htype, hmagic⟩ := headerDecodesBack s.params t l
  refine ⟨_, _, exec_frame_of_fits fits, exec_parse _, ?_⟩
  rw [State.header_latchEnc, State.header_writeFrame]
  refine ⟨?_, ?_, ?_, fun k hk => ?_⟩
  · rw [State.readReg_prsLen, State.latchPrs_prsLen, hlen]
  · rw [State.readReg_prsType, State.latchPrs_prsType, htype]
  · rw [State.latchPrs_status, Status.afterPrs_magicOk, State.latchEnc_params, State.writeFrame_params, hmagic]
  · rw [State.byteAt_latchPrs, State.byteAt_latchEnc, State.byteAt_writeFrame_payload hk]

/-- Settles O24: PARSE latches what it decodes from the header and does nothing else, and the word 3 decodes to it. -/
theorem parseResult : Obligations.ParseResult := by
  refine ⟨fun s => ⟨s.latchPrs s.header, exec_parse s, ?_⟩, fun s w hw => ?_, fun s m0 m1 b0 b1 b2 b3 b4 => ?_⟩
  · exact ⟨s.readReg_prsLen_latchPrs s.header, s.readReg_prsType_latchPrs s.header, magicOk_iff, rfl,
      s.view_latchPrs s.header, rfl, rfl, rfl, rfl, rfl, s.byteAt_latchPrs s.header, rfl, rfl, rfl⟩
  · have hdecode : decode w = .instr .parse := decode_eq_instr_iff.mpr (encode_parse_eq_iff_mask.mpr hw)
    exact perform_cmd_of_decode hdecode s
  · have hheader : s.header = ⟨0xDE, 0xAD, 0x01, 0x00, 0x02⟩ := by rw [State.header, b0, b1, b2, b3, b4]
    refine ⟨s.latchPrs s.header, perform_cmd_of_decode decode_word_parse s, ?_⟩
    rw [hheader]
    exact ⟨State.readReg_prsLen_latchPrs _ _, rfl, magicOk_iff.mpr ⟨m0.symm, m1.symm⟩, State.view_latchPrs _ _⟩

/-- Settles O25: type and length are decoded from bytes 2 to 4, and of STATUS only MAGIC_OK takes the check's answer. -/
theorem parseIgnoresMagic : Obligations.ParseIgnoresMagic := by
  intro s u h2 h3 h4
  have hlen : decLen s.header = decLen u.header := decLen_congr h3 h4
  have htype : decType s.header = decType u.header := h2
  refine ⟨_, _, exec_parse s, exec_parse u, ?_, ?_, fun hstatus => ?_⟩
  · simp only [State.readReg_prsLen, State.latchPrs_prsLen, hlen]
  · simp only [State.readReg_prsType, State.latchPrs_prsType, htype]
  · rw [State.latchPrs_status, State.latchPrs_status, hstatus]
    rfl

/-- Settles O26: the view is the decoded length as it is, and the buffer's size bounds only the reads through it. -/
theorem parseReportsView : Obligations.ParseReportsView := by
  intro s
  exact ⟨s.latchPrs s.header, exec_parse s, s.view_latchPrs s.header, rfl, fun _ _ hk => perform_bufRead_of_ge hk⟩

/-- Settles O28: the second PARSE reads the same header and latches the same outputs. -/
theorem parseTwiceIsParse : Obligations.ParseTwiceIsParse := by
  intro s s' h
  cases (exec_parse s).symm.trans h
  rw [exec_parse, State.header_latchPrs, State.latchPrs_latchPrs_same]

end Sys2Proof.Machine
end

section
/-! SUPPORT. The host port transaction by transaction: STATUS bit by bit as RegRead returns it, result registers
without a result, and the step of each read, buffer write and command word (spec/42_host_port.md R112 to R116,
R120). -/

namespace Sys2Proof.Machine

section
variable (st : Status)

/-- R25: the bits of the register below the three fault bits. -/
theorem Status.getLsbD_toWord_low :
    st.toWord.getLsbD 0 = st.validEnc ∧ st.toWord.getLsbD 1 = st.validPrs ∧ st.toWord.getLsbD 2 = st.magicOk := by
  simp only [Status.toWord, BitVec.getLsbD_setWidth, BitVec.getLsbD_append]
  simp

/-- R27: STATUS has six bits, and the register is their zero extension. -/
theorem Status.getLsbD_toWord_of_ge {n : Nat} (hn : 6 ≤ n) : st.toWord.getLsbD n = false := by
  rw [Status.toWord, BitVec.getLsbD_setWidth, BitVec.getLsbD_of_ge _ n hn, Bool.and_false]

end

section
variable {s : State} (h : s.Inv)
include h

theorem State.Inv.readReg_enc_eq_zero (hvalid : s.status.validEnc = false) :
    s.readReg Reg.encHdrA = 0 ∧ s.readReg Reg.encHdrB = 0 ∧ s.readReg Reg.encPad = 0
      ∧ s.readReg Reg.encTotal = 0 := by
  have henc := h.enc
  rw [State.EncInv, if_neg (by simp [hvalid])] at henc
  obtain ⟨hhdr, hpad, htotal⟩ := henc
  rw [State.readReg_encHdrA, State.readReg_encHdrB, State.readReg_encPad, State.readReg_encTotal, hhdr, hpad, htotal]
  decide

theorem State.Inv.readReg_prs_eq_zero (hvalid : s.status.validPrs = false) :
    s.readReg Reg.prsLen = 0 ∧ s.readReg Reg.prsType = 0 := by
  obtain ⟨hlen, htype, -⟩ := h.prs hvalid
  rw [State.readReg_prsLen, State.readReg_prsType, hlen, htype]
  decide

end

/-- Settles O31: a RegRead adds one reply, the map is read off number by number, and the invariant holds a result
register at 0 until its VALID bit is set. -/
theorem regReadMap : Obligations.RegReadMap := by
  refine ⟨fun s r rest hh => step_of_host hh, fun s => ?_,
    fun s h => ⟨h.readReg_enc_eq_zero, h.readReg_prs_eq_zero⟩⟩
  obtain ⟨hvalidEnc, hvalidPrs, hmagicOk⟩ := s.status.getLsbD_toWord_low
  exact ⟨rfl, hvalidEnc, hvalidPrs, hmagicOk, s.status.getLsbD_toWord_ill, s.status.getLsbD_toWord_ovf,
    s.status.getLsbD_toWord_lastFault, fun _ => s.status.getLsbD_toWord_of_ge, rfl, rfl, rfl, rfl, rfl, rfl, rfl,
    fun _ => s.readReg_reserved⟩

theorem State.byteAt_memWrite_of_ne (s : State) {o a : Nat} (b : Byte) (ha : a ≠ o) :
    (s.memWrite o [b]).byteAt a = s.byteAt a := by
  rw [State.byteAt_memWrite, dif_neg]
  rw [List.length_singleton]
  omega

/-- Settles O33: below BUF_SIZE the step is a one-byte MemWrite, which no register reads, and from there on it is
stuck. -/
theorem bufWriteResult : Obligations.BufWriteResult := by
  intro s o b rest hh
  rw [step_of_host hh]
  refine ⟨fun ho => ⟨_, perform_bufWrite_of_lt b ho, ?_⟩, fun ho => perform_bufWrite_of_ge b ho⟩
  exact ⟨State.byteAt_memWrite_same _ o b, fun _ ha => State.byteAt_memWrite_of_ne _ b ha, rfl,
    State.readReg_congr rfl rfl rfl rfl rfl rfl, rfl, rfl, rfl, rfl⟩

/-- Settles O34: below BUF_SIZE the step only adds a reply, which no byte depends on, and from there on it is
stuck. -/
theorem bufReadResult : Obligations.BufReadResult := by
  intro s o rest hh
  rw [step_of_host hh]
  refine ⟨fun ho => ?_, fun ho => perform_bufRead_of_ge ho⟩
  have hread := perform_bufRead_of_lt (s := { s with host := rest }) ho
  refine ⟨hread, fun s' hs' => ?_⟩
  cases hread.symm.trans hs'
  exact State.byteAt_congr rfl rfl o

/-- R124: what a word that encodes no command does. -/
theorem perform_cmd_of_illegal {w : Word} {why : IllegalWord} (h : decode w = .illegal why) (s : State) :
    perform (.regWrite Reg.cmd w) s = .next (s.raise .illegalCommand) := by
  rw [perform_regWrite_cmd, h, execute]

/-- Settles O8: the step is the write of CMD, and what its word decodes to says which of the two it does. -/
theorem stepRunsDecodedCommand : Obligations.StepRunsDecodedCommand := by
  intro s w rest hh
  rw [step_of_host hh]
  exact ⟨fun i hi _ => perform_cmd_of_decode hi _, fun why hw => perform_cmd_of_illegal hw _⟩

theorem decodeTableWord_eq_some_iff {nbits w : Nat} {i : Instr} :
    decodeTableWord nbits w = some i ↔ decode (tableWord nbits w) = .instr i := by
  rw [decodeTableWord]
  cases decode (tableWord nbits w) <;> simp [Decoded.toOption]

/-- A transaction issued before all others is the next step's, at the state it was issued in. -/
theorem step_issue (s : State) (tx : Transaction) : step (s.issue tx) = perform tx s := rfl

/-- Settles O9: the placed word is a write of CMD, issued before everything else. -/
theorem fetchedWordRuns : Obligations.FetchedWordRuns := by
  intro s nbits w i hw
  rw [State.withFetchWord, step_issue, perform_cmd_of_decode (decodeTableWord_eq_some_iff.mp hw)]

/-- Settles O11: an ended run's list is empty, and a step with none left is idle. -/
theorem endedRunStays : Obligations.EndedRunStays :=
  fun _ hended => step_of_host_nil hended

end Sys2Proof.Machine
end

section
/-! SUPPORT. Faults (spec/60_exceptions.md): STATUS as the host reads it after each, and what a command that leaves
LAST_FAULT at 1 has done. -/

namespace Sys2Proof.Machine

theorem Cause.code_lt (c : Cause) : c.code < 6 := by
  cases c <;> decide

/-- R122: the register gains the bit of the cause code and LAST_FAULT. Below bit 6 each bit is a field, which the
fault sets or keeps; from there on every bit is 0. -/
theorem Status.toWord_afterFault (st : Status) (c : Cause) :
    (st.afterFault c).toWord = st.toWord ||| BitVec.twoPow 32 c.code ||| BitVec.twoPow 32 5 := by
  apply BitVec.eq_of_getLsbD_eq
  intro n _
  simp only [BitVec.getLsbD_or, BitVec.getLsbD_twoPow]
  rcases Nat.lt_or_ge n 6 with hlow | hhigh
  · interval_cases n <;>
      simp only [Status.getLsbD_toWord_low, Status.getLsbD_toWord_ill, Status.getLsbD_toWord_ovf,
        Status.getLsbD_toWord_lastFault] <;>
      cases c <;> simp [Cause.code]
  · have hcode : c.code ≠ n := (c.code_lt.trans_le hhigh).ne
    have hfive : 5 ≠ n := (Nat.lt_of_succ_le hhigh).ne
    simp [Status.getLsbD_toWord_of_ge _ hhigh, hcode, hfive]

/-- R121, R130: of the effects a write of CMD can have, the two that raise a fault alone leave LAST_FAULT at 1, and
each comes from the decoding of its own kind. -/
theorem effect_of_lastFault {s s' : State} {w : Word} (he : Effect s (.regWrite Reg.cmd w) s')
    (hfault : s'.status.lastFault = true) :
    (∃ why, decode w = .illegal why) ∧ s' = s.raise .illegalCommand
      ∨ (∃ t l, decode w = .instr (.frame t l)) ∧ s' = s.raise .frameCapacity := by
  cases he with
  | ignored _ _ hr => exact absurd rfl hr
  | illegal _ why hd => exact .inl ⟨⟨why, hd⟩, rfl⟩
  | overflowed _ t l hd => exact .inr ⟨⟨t, l, hd⟩, rfl⟩
  | encoded | framed | parsed => simp at hfault

/-- Settles O40: the step is the write of CMD, and raising a fault writes STATUS alone. -/
theorem faultIsPrecise : Obligations.FaultIsPrecise := by
  intro s s' w rest hh h hfault
  rw [step_of_host hh] at h
  exact effect_of_lastFault (effect_of_perform h) hfault

/-- Settles O41: the register is the status word, and raising a fault writes it as the cause says. -/
theorem causeCodeIsStatusBit : Obligations.CauseCodeIsStatusBit := by
  intro s c
  rw [State.readReg_status, State.readReg_status, State.raise_status, Status.toWord_afterFault]

end Sys2Proof.Machine
end

section
/-! SUPPORT. Reset (spec/70_reset_and_hazards.md R136, R137): the registers and the buffer bytes of the state it
leaves. -/

namespace Sys2Proof.Machine

/-- R47: with no offset written since the reset, every buffer byte is the one drawn for it then. -/
theorem State.byteAt_of_buf_nil {s : State} (hb : s.buf = []) (o : Nat) :
    s.byteAt o = Config.freeByte s.epoch o := by
  simp [State.byteAt, hb, Memory.lookup]

@[simp] theorem State.byteAt_clear (s : State) (o : Nat) : s.clear.byteAt o = Config.freeByte (s.epoch + 1) o :=
  State.byteAt_of_buf_nil s.clear_buf o

/-- R137: the host reads a block that was reset as one just powered on. -/
theorem State.readReg_clear (s : State) (r : RegNum) : s.clear.readReg r = (State.powerOn s.params).readReg r :=
  State.readReg_congr rfl rfl rfl rfl rfl rfl r

theorem step_of_host_reset {s : State} {rest : List Transaction} (hh : s.host = .reset :: rest) :
    step s = .next ({ s with host := rest } : State).clear := by
  rw [step_of_host hh, perform, doReset]

/-- Settles O35: the step clears the block, which leaves the power-on registers and no byte written, and counts
one reset more. -/
theorem resetResult : Obligations.ResetResult := by
  intro s rest hh
  have hreg := fun r => (State.readReg_clear { s with host := rest } r).trans (State.readReg_powerOn s.params r)
  exact ⟨_, step_of_host_reset hh, rfl, hreg, Nat.succ_ne_self s.epoch, State.byteAt_clear _⟩

end Sys2Proof.Machine
end
